-- ==== Sys2Proof/Word.lean ====
section
/-! DEFINITION. The word types of the block (00_scope.md R8, R9): bytes of the buffer, 16-bit accumulator, counter
and length values, and 32-bit register values. All values are unsigned (R9). -/

namespace Sys2Proof

/-- One buffer byte (R9, R53). -/
abbrev Byte := BitVec 8

/-- A 16-bit value: ACC, CNT, LEN, LEN_L, a table entry (R8: `CRC_W` = 16, `LEN_W` = 16). -/
abbrev Half := BitVec 16

/-- A 32-bit value: a host register, DATA, RDATA (R8: `REG_W` = 32), and a buffer address of up to 32 bits. -/
abbrev Word := BitVec 32

end Sys2Proof
end

