-- ==== Sys2Proof/Config.lean ====
section
/-! DEFINITION. What is fixed for the machine: the algorithm's parameters (00_scope.md R2, R8), the OPEN parameters
of the platform (R8 `ADDR_W`, 20_memory.md R60 `REG_BASE`, R56 `MemAdmit`), and the free values, which have no body:
nothing in Lean can evaluate one or prove a value of it. -/

namespace Sys2Proof

namespace Config

/-- `INIT`: the accumulator's value at the start of every computation (R2, R8, R22). -/
def init : Half := 0xFFFF#16

/-- `POLY_R`: the reflected polynomial constant (R2, R8). -/
def polyR : Half := 0xA001#16

/-- `WINDOW`: bytes of host register space (R8). -/
def windowBytes : Nat := 32

/-- A free 32-bit value for each number: the `n`-th unspecified value drawn (R33, R36, R240; U5, U6 of
93_implementation_defined.md). `State.draws` counts the draws, so that every draw is a fresh one. Log entry 2. -/
opaque freeDraw : Nat → Word

/-- The byte at a buffer address that no event of the model has written: the buffer memory is an oracle (R20), and the
spec gives its contents no value (U2 of 93_implementation_defined.md). Log entry 4. -/
opaque freeByte : Nat → Byte

end Config

/-- A run of buffer addresses `lo … lo + size - 1`. -/
structure AddrRange where
  lo   : Nat
  size : Nat
deriving DecidableEq, Repr

/-- The OPEN parameters of the platform the block stands in. The spec's model "takes them as an argument": they stand
in State as plain data that no step changes, so a statement over every state is a statement for every platform.
Log entry 1. -/
structure Platform where
  /-- `ADDR_W`, the buffer address width in bits, 1 ≤ ADDR_W ≤ 32 (R8, D4). -/
  addrW    : Nat
  /-- `REG_BASE`, the host address of offset 0x00 of this instance's register window (R60, D29). -/
  regBase  : Nat
  /-- `MemAdmit`: the buffer addresses whose reads the platform admits (R56, D15), as ranges. -/
  admitted : List AddrRange
deriving DecidableEq, Repr

/-- The bounds of the OPEN parameter `ADDR_W` (R8). -/
def Platform.wf (p : Platform) : Bool := decide (1 ≤ p.addrW) && decide (p.addrW ≤ 32)

/-- The platform of `State.reset` (DESIGN CHOICE, log entry 1): ADDR_W = 32 as in the spec's examples (R8), the window
at 0, every buffer address admitted. -/
def Platform.standard : Platform :=
  { addrW := 32, regBase := 0, admitted := [{ lo := 0, size := 4294967296 }] }

end Sys2Proof
end

