-- ==== Sys2Proof/Syntax.lean ====
section
/-! DEFINITION. The operations of the block, one constructor for each row of spec/opcode_table.json; the two encoded
formats (30_encoding.md R80); a host access as it stands on the platform's bus; and the spec's assembly notation
(R90, R91). -/

namespace Sys2Proof

/-- The operations: the 16 host transactions (R82), the engine half of an accepted START (R141) and the two engine
micro-operations (R83). A write carries DATA[31:0] (R81); a read carries nothing. -/
inductive Instr where
  | rdBase
  | rdLen
  | rdCtrl
  | rdStatus
  | rdResult
  | rdRsvd14
  | rdRsvd18
  | rdRsvd1C
  | wrBase   (data : Word)
  | wrLen    (data : Word)
  | wrCtrl   (data : Word)
  | wrStatus (data : Word)
  | wrResult (data : Word)
  | wrRsvd14 (data : Word)
  | wrRsvd18 (data : Word)
  | wrRsvd1C (data : Word)
  /-- No decode of its own: WR_CTRL performs it (R87, R141, R174). -/
  | engAccept
  | engStep
  | engFinish
deriving DecidableEq, Repr

/-- The 16 operations an HT key selects (R82), without their data word. -/
inductive HtOp where
  | rdBase | rdLen | rdCtrl | rdStatus | rdResult | rdRsvd14 | rdRsvd18 | rdRsvd1C
  | wrBase | wrLen | wrCtrl | wrStatus | wrResult | wrRsvd14 | wrRsvd18 | wrRsvd1C
deriving DecidableEq, Repr

/-- The two formats of R80. "No other format exists." -/
inductive Code where
  /-- HT: the 6-bit key `{W, OFF[4:0]}` and the data word of a write (R81). -/
  | ht (key : BitVec 6) (data : Word)
  /-- EC: the 2-bit engine condition `{BUSY, CNT == LEN_L}` (R83). -/
  | ec (w : BitVec 2)
deriving DecidableEq, Repr

/-- One host access on the platform's bus, before it is known whether it reaches the block (R58, R60, R88). -/
structure HostAccess where
  /-- true for RegWrite, false for RegRead (R81). -/
  write : Bool
  /-- the address in the host's address space -/
  addr  : Nat
  /-- the access width in bytes; the block defines 4 only (R58) -/
  bytes : Nat
  /-- DATA, the value written (R81); a read ignores it -/
  data  : Word
deriving DecidableEq, Repr

/-- `<reg>` of the assembly notation (R90). -/
inductive AsmReg where
  | base | len | ctrl | status | result | rsvd14 | rsvd18 | rsvd1c
deriving DecidableEq, Repr

/-- One line of host-transaction assembly (R90). -/
inductive AsmLine where
  | rd (reg : AsmReg)
  | wr (reg : AsmReg) (imm32 : Nat)
deriving DecidableEq, Repr

/-- The pseudo-instructions (R91). `wait_done` is a loop in the host's own program: `polls` says how many times this
run of the loop reads STATUS, which R91 leaves to the host and the schedule. -/
inductive Pseudo where
  | start
  | waitDone (polls : Nat)
  | crc16 (a n : Nat) (polls : Nat)
deriving DecidableEq, Repr

end Sys2Proof
end

