-- ==== Sys2Proof/WellFormed.lean ====
section
/-! DEFINITION. Well-formedness of what is written down: an operation as a decoder can give it, a host access as the
block defines it, an assembly line. Each is a Bool. -/

namespace Sys2Proof

/-- An operation that a word of its own decodes to. ENG_ACCEPT "is not a separate decode" (30_encoding.md R87); every
DATA value of every write is legal (R84, 10_state.md R29, R30). -/
def Instr.wellFormed : Instr → Bool
  | .rdBase => true
  | .rdLen => true
  | .rdCtrl => true
  | .rdStatus => true
  | .rdResult => true
  | .rdRsvd14 => true
  | .rdRsvd18 => true
  | .rdRsvd1C => true
  | .wrBase _ => true
  | .wrLen _ => true
  | .wrCtrl _ => true
  | .wrStatus _ => true
  | .wrResult _ => true
  | .wrRsvd14 _ => true
  | .wrRsvd18 _ => true
  | .wrRsvd1C _ => true
  | .engAccept => false
  | .engStep => true
  | .engFinish => true

/-- The operation is one of the host's 16 register transactions (R82). -/
def Instr.isHost : Instr → Bool
  | .engAccept => false
  | .engStep => false
  | .engFinish => false
  | .rdBase => true
  | .rdLen => true
  | .rdCtrl => true
  | .rdStatus => true
  | .rdResult => true
  | .rdRsvd14 => true
  | .rdRsvd18 => true
  | .rdRsvd1C => true
  | .wrBase _ => true
  | .wrLen _ => true
  | .wrCtrl _ => true
  | .wrStatus _ => true
  | .wrResult _ => true
  | .wrRsvd14 _ => true
  | .wrRsvd18 _ => true
  | .wrRsvd1C _ => true

/-- A host access the block gives a meaning: 32 bits wide, inside the window, at a 4-byte-aligned offset of it
(20_memory.md R58, 30_encoding.md R88). -/
def HostAccess.wellFormed (p : Platform) (a : HostAccess) : Bool :=
  decide (a.bytes = 4) && decide (p.regBase ≤ a.addr)
    && decide (a.addr < p.regBase + Config.windowBytes) && decide ((a.addr - p.regBase) % 4 = 0)

/-- `<imm32>` is a value in 0 … 0xFFFFFFFF (R90). -/
def AsmLine.wellFormed : AsmLine → Bool
  | .rd _ => true
  | .wr _ imm => decide (imm ≤ 0xFFFFFFFF)

/-- The operands of a pseudo-instruction are legal in every line it stands for (R91). -/
def Pseudo.wellFormed : Pseudo → Bool
  | .start => true
  | .waitDone _ => true
  | .crc16 a n _ => decide (a ≤ 0xFFFFFFFF) && decide (n ≤ 0xFFFFFFFF)

end Sys2Proof
end

