-- ==== Sys2Proof/Decode.lean ====
section
/-! DEFINITION. Decoding of the two formats (30_encoding.md R81 to R83), total, rejecting by name; the encoder, written
from the same tables; the assembler's notation (R90, R91); and the reading of spec/opcode_table.json's numbers. -/

namespace Sys2Proof

/-- Why a word gives no operation. -/
inductive DecodeError where
  /-- an HT key whose OFF[1:0] is not 00 (R82, R88) -/
  | misaligned (off : BitVec 5)
  /-- an EC word with BUSY = 0: the engine is idle and has no step (R83) -/
  | engineIdle
deriving DecidableEq, Repr

/-- What a decoder answers: total, a value or a rejection by name. -/
inductive Decoded (α : Type) where
  | ok (a : α)
  | rejected (e : DecodeError)
deriving DecidableEq, Repr

/-- W, key bit 5 (R81). -/
def keyWrite (key : BitVec 6) : Bool := key.getLsbD 5

/-- OFF[4:0], key bits 4:0 (R81). -/
def keyOffset (key : BitVec 6) : BitVec 5 := key.extractLsb' 0 5

/-- The HT key `{W, OFF[4:0]}` (R81). -/
def makeKey (w : Bool) (off : BitVec 5) : BitVec 6 := BitVec.ofBool w ++ off

/-- `decode_HT` of R82, case for case: the operation a key selects. -/
def decodeKey (key : BitVec 6) : Decoded HtOp :=
  if (keyOffset key).extractLsb' 0 2 ≠ 0#2 then .rejected (.misaligned (keyOffset key))
  else
    match ((keyOffset key).extractLsb' 2 3).toNat, keyWrite key with
    | 0, false => .ok .rdBase
    | 0, true  => .ok .wrBase
    | 1, false => .ok .rdLen
    | 1, true  => .ok .wrLen
    | 2, false => .ok .rdCtrl
    | 2, true  => .ok .wrCtrl
    | 3, false => .ok .rdStatus
    | 3, true  => .ok .wrStatus
    | 4, false => .ok .rdResult
    | 4, true  => .ok .wrResult
    | 5, false => .ok .rdRsvd14
    | 5, true  => .ok .wrRsvd14
    | 6, false => .ok .rdRsvd18
    | 6, true  => .ok .wrRsvd18
    | _, false => .ok .rdRsvd1C
    | _, true  => .ok .wrRsvd1C

/-- The operation with the data word of a write (R81). A read's data word is not there. -/
def HtOp.withData (op : HtOp) (data : Word) : Instr :=
  match op with
  | .rdBase => .rdBase
  | .rdLen => .rdLen
  | .rdCtrl => .rdCtrl
  | .rdStatus => .rdStatus
  | .rdResult => .rdResult
  | .rdRsvd14 => .rdRsvd14
  | .rdRsvd18 => .rdRsvd18
  | .rdRsvd1C => .rdRsvd1C
  | .wrBase => .wrBase data
  | .wrLen => .wrLen data
  | .wrCtrl => .wrCtrl data
  | .wrStatus => .wrStatus data
  | .wrResult => .wrResult data
  | .wrRsvd14 => .wrRsvd14 data
  | .wrRsvd18 => .wrRsvd18 data
  | .wrRsvd1C => .wrRsvd1C data

/-- One host transaction (R82). -/
def decodeHT (key : BitVec 6) (data : Word) : Decoded Instr :=
  match decodeKey key with
  | .ok op => .ok (op.withData data)
  | .rejected e => .rejected e

/-- One engine condition (R83). -/
def decodeEC (w : BitVec 2) : Decoded Instr :=
  match w.getLsbD 1, w.getLsbD 0 with
  | false, _ => .rejected .engineIdle
  | true, false => .ok .engStep
  | true, true => .ok .engFinish

/-- The decoder of both formats, total. -/
def decode : Code → Decoded Instr
  | .ht key data => decodeHT key data
  | .ec w => decodeEC w

/-- The key of each operation, as 42_host_access.md R171 to R187 give it. -/
def HtOp.key : HtOp → BitVec 6
  | .rdBase => 0x00#6
  | .rdLen => 0x04#6
  | .rdCtrl => 0x08#6
  | .rdStatus => 0x0C#6
  | .rdResult => 0x10#6
  | .rdRsvd14 => 0x14#6
  | .rdRsvd18 => 0x18#6
  | .rdRsvd1C => 0x1C#6
  | .wrBase => 0x20#6
  | .wrLen => 0x24#6
  | .wrCtrl => 0x28#6
  | .wrStatus => 0x2C#6
  | .wrResult => 0x30#6
  | .wrRsvd14 => 0x34#6
  | .wrRsvd18 => 0x38#6
  | .wrRsvd1C => 0x3C#6

/-- The words of an operation. A read has no data word (it is encoded as 0). ENG_ACCEPT has no word of its own: its
row of the table is the transaction that triggers it, key 0x28 with DATA[0] = 1 (R87). -/
def encode : Instr → Code
  | .rdBase => .ht HtOp.rdBase.key 0#32
  | .rdLen => .ht HtOp.rdLen.key 0#32
  | .rdCtrl => .ht HtOp.rdCtrl.key 0#32
  | .rdStatus => .ht HtOp.rdStatus.key 0#32
  | .rdResult => .ht HtOp.rdResult.key 0#32
  | .rdRsvd14 => .ht HtOp.rdRsvd14.key 0#32
  | .rdRsvd18 => .ht HtOp.rdRsvd18.key 0#32
  | .rdRsvd1C => .ht HtOp.rdRsvd1C.key 0#32
  | .wrBase data => .ht HtOp.wrBase.key data
  | .wrLen data => .ht HtOp.wrLen.key data
  | .wrCtrl data => .ht HtOp.wrCtrl.key data
  | .wrStatus data => .ht HtOp.wrStatus.key data
  | .wrResult data => .ht HtOp.wrResult.key data
  | .wrRsvd14 data => .ht HtOp.wrRsvd14.key data
  | .wrRsvd18 data => .ht HtOp.wrRsvd18.key data
  | .wrRsvd1C data => .ht HtOp.wrRsvd1C.key data
  | .engAccept => .ht HtOp.wrCtrl.key 1#32
  | .engStep => .ec 0b10#2
  | .engFinish => .ec 0b11#2

/-! ## The assembler's notation (R90, R91) -/

/-- Register names map to offsets as in 10_state.md R29 to R34 (R90). -/
def AsmReg.offset : AsmReg → BitVec 5
  | .base => 0x00#5
  | .len => 0x04#5
  | .ctrl => 0x08#5
  | .status => 0x0C#5
  | .result => 0x10#5
  | .rsvd14 => 0x14#5
  | .rsvd18 => 0x18#5
  | .rsvd1c => 0x1C#5

/-- The encoding of a line: its HT key, and the data word of a write (R90). -/
def AsmLine.code : AsmLine → Code
  | .rd r => .ht (makeKey false r.offset) 0#32
  | .wr r imm => .ht (makeKey true r.offset) (BitVec.ofNat 32 imm)

/-- The lines a pseudo-instruction stands for (R91). -/
def Pseudo.expand : Pseudo → List AsmLine
  | .start => [.wr .ctrl 1]
  | .waitDone polls => List.replicate polls (.rd .status)
  | .crc16 a n polls =>
      [.wr .base a, .wr .len n, .wr .ctrl 1] ++ List.replicate polls (.rd .status) ++ [.rd .result]

/-- A host transaction as an access of the window that lies at `regBase` (R58, R60). -/
def accessOf (regBase : Nat) (key : BitVec 6) (data : Word) : HostAccess :=
  { write := keyWrite key, addr := regBase + (keyOffset key).toNat, bytes := 4, data := data }

/-! ## The numbers of spec/opcode_table.json

A row of format HT is a 6-bit key and a row of format EC a 2-bit word; each stands in one byte. Every HT row ends in 00
and every EC row has bit 1 set, so a number below 4 names at most one row. A write's DATA word follows the key's byte
(bits 39:8). Log entry 6. -/

/-- The code that a number of the table stands for: none where the key's byte has a bit that no format has. -/
def tableCode (nbits w : Nat) : Option Code :=
  if w % 256 = 2 ∨ w % 256 = 3 ∨ nbits ≤ 2 then
    if w < 4 then some (.ec (BitVec.ofNat 2 w)) else none
  else if w % 256 < 64 ∧ w < 2 ^ 40 then
    some (.ht (BitVec.ofNat 6 (w % 256)) (BitVec.ofNat 32 (w / 256)))
  else none

/-- The instruction the decoder reads from the bits of a table row. -/
def decodeTableWord (nbits w : Nat) : Option Instr :=
  match tableCode nbits w with
  | some c =>
    match decode c with
    | .ok i => some i
    | .rejected _ => none
  | none => none

end Sys2Proof
end

