-- ==== Sys2Proof/Machine/State.lean ====
section
/-! DEFINITION. The state of the machine as plain data, the reasons a step can stop, and the state after reset
(10_state.md R20 to R37; 70_reset_and_hazards.md R240). -/

namespace Sys2Proof.Machine

/-- The buffer space (20_memory.md R50): the bytes that stores have put there, by rising address. An unlisted address
holds no known value: a read of it answers the oracle's free byte (`Config.freeByte`; log entry 4). -/
abbrev Memory := List Host.Cell

/-- One event of the single total order of 20_memory.md R62, as the world outside the block schedules it. -/
inductive Event where
  /-- one access by a host (42_host_access.md) -/
  | host (a : HostAccess)
  /-- the engine takes its enabled micro-operation, if it has one (41_engine_sequencer.md R142) -/
  | engine
  /-- another agent's store of one byte to the buffer space reaches the memory (R63) -/
  | store (addr : Nat) (b : Byte)
  /-- the reset input (70_reset_and_hazards.md R240) -/
  | reset
deriving DecidableEq, Repr

/-- The machine: the engine's nine elements of R20 (less T, which "is configuration, not state", R28), and what the
model keeps of the world around it. -/
structure State where
  /-- the OPEN parameters ADDR_W, REG_BASE and MemAdmit (R8, R56, R60); no step changes them -/
  plat    : Platform
  /-- ACC, 16 bits (R22) -/
  acc     : Half
  /-- CNT, 16 bits (R23) -/
  cnt     : Half
  /-- BASE_L, ADDR_W bits (R24), zero above ADDR_W -/
  baseL   : Word
  /-- LEN_L, 16 bits (R25) -/
  lenL    : Half
  /-- BUSY, 1 bit (R26) -/
  busy    : Bool
  /-- DONE, 1 bit (R27) -/
  done    : Bool
  /-- BASE, ADDR_W bits (R29), zero above ADDR_W -/
  base    : Word
  /-- LEN, 16 bits (R30) -/
  len     : Half
  /-- the buffer space that the engine reads (R50) -/
  mem     : Memory
  /-- RDATA of the last host read (R81): the value on the bus, held by the host, not by the engine -/
  rdata   : Word
  /-- the events still to come, first first (R62); when none is left the turn is the engine's -/
  inbox   : List Event
  /-- the model's own: how many free values have been drawn (R33, R36; log entry 2) -/
  draws   : Nat
  /-- the model's own record of the current computation's buffer reads, address and byte, oldest first (R35, R53);
  nothing reads it (log entry 8) -/
  readLog : List Host.Cell
deriving DecidableEq, Repr

/-- What stops an engine micro-operation in a state the spec calls `stuck` (00_scope.md R10). -/
inductive Fault where
  /-- Raised by ENG_STEP alone: the platform does not admit the read of this address, so the engine has no step
  (20_memory.md R56). Safe: the micro-operation does not happen; `step` lets the engine's turn pass, so the engine
  stays in RUN and the other agents go on. -/
  | readNotAdmitted (addr : Nat)
deriving DecidableEq, Repr

/-- What the model gives no meaning (00_scope.md R10, `refuse`), and what is not modelled. -/
inductive Refusal where
  /-- An instruction without a meaning yet, by its mnemonic. Safe. -/
  | notModelled (mnemonic : String)
  /-- Raised by `step` for a host access at an offset with OFF[1:0] ≠ 00 (R58, R82). Safe: no claim rests on it. -/
  | misalignedAccess (off : BitVec 5)
  /-- Raised by `step` for a host access of the window that is not 32 bits wide (R58). Safe. -/
  | accessWidth (bytes : Nat)
  /-- Raised by `step` for a 32-bit host access that begins below the window and ends inside it (R58). Safe. -/
  | straddlesWindow (addr : Nat)
  /-- Raised by WR_CTRL and ENG_ACCEPT for a START whose buffer would pass the top of the buffer space (R55). Safe. -/
  | bufferWraps
  /-- Raised by ENG_ACCEPT, ENG_STEP and ENG_FINISH where the `require` line of their rule does not hold (R141, R143,
  R144). Safe: `step` never asks for a micro-operation that EC does not select. -/
  | notEnabled (mnemonic : String)
  /-- Raised by `step` for another agent's store to an address of no byte of the buffer space (R50). Safe. -/
  | outsideBufferSpace (addr : Nat)
deriving DecidableEq, Repr

/-- The machine right after reset (R36, R240) on `Platform.standard`, with nothing stored in the buffer space and no
event pending. BUSY, DONE, BASE and LEN are as R36 gives them. ACC, CNT, BASE_L and LEN_L are "unspecified (free
draws)": the first four draws (log entry 3; ADDR_W is 32 here, so BASE_L takes all 32 bits). -/
def State.reset : State :=
  { plat := Platform.standard
    acc := (Config.freeDraw 0).setWidth 16
    cnt := (Config.freeDraw 1).setWidth 16
    baseL := Config.freeDraw 2
    lenL := (Config.freeDraw 3).setWidth 16
    busy := false
    done := false
    base := 0#32
    len := 0#16
    mem := []
    rdata := 0#32
    inbox := []
    draws := 4
    readLog := [] }

end Sys2Proof.Machine
end

