-- ==== Sys2Proof/Machine/Flags.lean ====
section
/-! DEFINITION. The block's two flags BUSY and DONE (10_state.md R26, R27), the words made of them (R32, R83), and the
phase they show (41_engine_sequencer.md R140). The block has no other flag (R27). -/

namespace Sys2Proof.Machine

/-- `zext_32({DONE, BUSY})` (30_encoding.md R85; 10_state.md R32). -/
def statusWord (s : State) : Word := (BitVec.ofBool s.done ++ BitVec.ofBool s.busy).setWidth 32

/-- EQ = (CNT == LEN_L) (R83). -/
def allConsumed (s : State) : Bool := s.cnt == s.lenL

/-- EC = {BUSY, EQ} (R83). -/
def ecWord (s : State) : BitVec 2 := BitVec.ofBool s.busy ++ BitVec.ofBool (allConsumed s)

/-- The three phases of the engine (R140). -/
inductive Phase where
  | idle | run | result
deriving DecidableEq, Repr

/-- The phase BUSY and DONE show (R140); none for the pair that R35 rules out. -/
def phaseOf (busy done : Bool) : Option Phase :=
  match busy, done with
  | false, false => some .idle
  | true, false => some .run
  | false, true => some .result
  | true, true => none

/-- The phase of a state. -/
def phase (s : State) : Option Phase := phaseOf s.busy s.done

/-- The flags of an accepted START: BUSY <- 1, DONE <- 0 (R141). -/
def flagsAccepted (s : State) : State := { s with busy := true, done := false }

/-- The flags of ENG_FINISH: BUSY <- 0, DONE <- 1 (R144). -/
def flagsFinished (s : State) : State := { s with busy := false, done := true }

/-- The flags of reset: BUSY <- 0, DONE <- 0 (R240). -/
def flagsReset (s : State) : State := { s with busy := false, done := false }

end Sys2Proof.Machine
end

