-- ==== Sys2Proof/Machine/Operands.lean ====
section
/-! DEFINITION. Operand assembly: the bits of a write's DATA that are used (30_encoding.md R84), the RDATA of each read
(R85), and the engine's own operands (R86). No value is sign-extended. -/

namespace Sys2Proof.Machine

/-- `DATA[ADDR_W-1:0]`; `DATA[31:ADDR_W]` is discarded (R84, 10_state.md R29). -/
def addrField (p : Platform) (data : Word) : Word := BitVec.ofNat 32 (data.toNat % 2 ^ p.addrW)

/-- `DATA[15:0]`; `DATA[31:16]` is discarded (R84, 10_state.md R30). -/
def lenField (data : Word) : Half := data.extractLsb' 0 16

/-- START = `DATA[0]`; `DATA[31:1]` is discarded (R84, 10_state.md R31). -/
def startBit (data : Word) : Bool := data.getLsbD 0

/-- RD_BASE: `zext_32(BASE)`, BASE being zero above ADDR_W (R85). -/
def baseRead (s : State) : Word := s.base

/-- RD_LEN: `zext_32(LEN)` (R85). -/
def lenRead (s : State) : Word := s.len.setWidth 32

/-- RD_CTRL and the reserved offsets: 0x00000000 (R85). -/
def zeroRead : Word := 0#32

/-- RD_RESULT with DONE = 1: `zext_32(ACC)` (R85). -/
def accRead (s : State) : Word := s.acc.setWidth 32

/-- The low 16 bits of the `n`-th free draw. -/
def draw16 (n : Nat) : Half := (Config.freeDraw n).setWidth 16

/-- RD_RESULT with DONE = 0: `zext_32(v)`, v the next free draw (R85; 42_host_access.md R180). -/
def unspecifiedRead (s : State) : Word := (draw16 s.draws).setWidth 32

/-- The address of the byte the engine consumes next: BASE_L + CNT, "unsigned addition", exact (00_scope.md R9,
20_memory.md R53, R61). -/
def bufferAddr (s : State) : Nat := s.baseL.toNat + s.cnt.toNat

/-- The table index `ACC[7:0] ^ b` (R86). -/
def tableIndex (acc : Half) (b : Byte) : Byte := acc.extractLsb' 0 8 ^^^ b

/-- The shifted term `zext_16(ACC[15:8])` (R86). -/
def shiftedTerm (acc : Half) : Half := (acc.extractLsb' 8 8).setWidth 16

end Sys2Proof.Machine
end

