-- ==== Sys2Proof/Machine/Ops.lean ====
section
/-! DEFINITION. The shared operations over memory and state: the buffer space and its reads (20_memory.md), the answer
of a host read, the start of a computation, one byte's step and the end (41_engine_sequencer.md R141, R143, R144), and
reset (70_reset_and_hazards.md R240).

The block takes no exception and has no return from one (60_exceptions.md R210, R214, R215), so no such operation
stands here. -/

namespace Sys2Proof.Machine

/-! ## The buffer space -/

/-- The canonical form: addresses strictly rising. An unlisted address holds no known value (`none`), so no entry can
equal what an unlisted address holds. -/
def Memory.wf : Memory → Bool
  | [] => true
  | [_] => true
  | c :: d :: m => decide (c.1 < d.1) && Memory.wf (d :: m)

/-- The byte listed at an address, if there is one. -/
def Memory.find : Memory → Nat → Option Byte
  | [], _ => none
  | c :: m, a => if c.1 = a then some c.2 else Memory.find m a

/-- The byte the buffer memory gives at an address: the listed one, else the oracle's free byte (R63; log entry 4). -/
def Memory.read (m : Memory) (a : Nat) : Byte := (Memory.find m a).getD (Config.freeByte a)

/-- One byte stored at an address by another agent; the block itself stores nothing (R51). -/
def Memory.write : Memory → Nat → Byte → Memory
  | [], a, b => [(a, b)]
  | c :: m, a, b =>
    if a < c.1 then (a, b) :: c :: m
    else if a = c.1 then (a, b) :: m
    else c :: Memory.write m a b

/-- The `n` buffer bytes from an address on, in ascending order (R53). -/
def Memory.bytes (m : Memory) (a : Nat) : Nat → List Byte
  | 0 => []
  | n + 1 => Memory.read m a :: Memory.bytes m (a + 1) n

/-- The address is one of the 2^ADDR_W addresses of the buffer space (R50). -/
def inSpace (p : Platform) (a : Nat) : Bool := decide (a < 2 ^ p.addrW)

/-- The address lies in the range. -/
def AddrRange.contains (r : AddrRange) (a : Nat) : Bool := decide (r.lo ≤ a) && decide (a < r.lo + r.size)

/-- `MemAdmit(addr)`: the platform admits a read there (R56), which it can only do at an address of the space. -/
def admits (p : Platform) (a : Nat) : Bool := inSpace p a && p.admitted.any (fun r => AddrRange.contains r a)

/-- `MemRead(addr, 1)` (00_scope.md R10, R53): none where the platform does not admit the read (R56). -/
def memRead (s : State) (a : Nat) : Option Byte :=
  if admits s.plat a then some (Memory.read s.mem a) else none

/-- Another agent's store reaches the buffer memory (R63). -/
def storeByte (a : Nat) (b : Byte) (s : State) : State := { s with mem := Memory.write s.mem a b }

/-! ## Host reads and register writes -/

/-- A read returns RDATA (30_encoding.md R81, R85) and does nothing else (20_memory.md R59). -/
def reply (v : Word) (s : State) : State := { s with rdata := v }

/-- One free value has been drawn. -/
def drawn (s : State) : State := { s with draws := s.draws + 1 }

/-- BASE <- v (42_host_access.md R171). -/
def setBase (v : Word) (s : State) : State := { s with base := v }

/-- LEN <- v (42_host_access.md R172). -/
def setLen (v : Half) (s : State) : State := { s with len := v }

/-! ## The computation -/

/-- The assignments of ENG_ACCEPT (R141), for a buffer of `n` bytes at `b`; the record of reads starts anew. -/
def latch (b : Word) (n : Half) (s : State) : State :=
  flagsAccepted { s with baseL := b, lenL := n, cnt := 0#16, acc := Config.init, readLog := [] }

/-- The buffer would pass the top of the buffer space: LEN ≠ 0 and BASE + LEN > 2^ADDR_W, "computed exactly, without
wrap" (20_memory.md R55). -/
def bufferWraps (s : State) : Bool :=
  decide (s.len ≠ 0#16) && decide (2 ^ s.plat.addrW < s.base.toNat + s.len.toNat)

/-- ENG_ACCEPT after its `require` (R141): refused where the buffer would wrap, else BASE and LEN are latched. -/
def accept (s : State) : Host.Outcome State Fault Refusal :=
  if bufferWraps s then .refused .bufferWraps else .next (latch s.base s.len s)

/-- The assignments of ENG_STEP for the byte `b` read (R143); the read is added to the record of reads. -/
def consume (b : Byte) (s : State) : State :=
  { s with acc := crcStep s.acc b, cnt := s.cnt + 1#16, readLog := s.readLog ++ [(bufferAddr s, b)] }

/-- The block's one read of the platform that R56 speaks of: BUSY = 1, bytes are left, and the next read is not
admitted. The engine then "has no step" (R10 `stuck`). -/
def engineStuck (s : State) : Bool := s.busy && !allConsumed s && !admits s.plat (bufferAddr s)

/-! ## Reset and the order of events -/

/-- RESET (R240): BUSY, DONE, BASE and LEN are 0, and ACC, CNT, BASE_L and LEN_L are free draws. The buffer memory, the
platform and what the host has read are not the block's and stay (log entry 7). -/
def resetBlock (s : State) : State :=
  { flagsReset s with
    base := 0#32
    len := 0#16
    acc := draw16 s.draws
    cnt := draw16 (s.draws + 1)
    baseL := addrField s.plat (Config.freeDraw (s.draws + 2))
    lenL := draw16 (s.draws + 3)
    draws := s.draws + 4
    readLog := [] }

/-- The first pending event has been taken (R62). -/
def popEvent (s : State) : State := { s with inbox := s.inbox.tail }

end Sys2Proof.Machine
end

