-- ==== Sys2Proof/Machine/Engine.lean ====
section
/-! DEFINITION. The engine's micro-operations (41_engine_sequencer.md R141, R143, R144). -/

namespace Sys2Proof.Machine

/-- ENG_ACCEPT (R141): `require BUSY = 0`, then BASE and LEN are latched and the computation begins. -/
def execEngAccept (s : State) : Host.Outcome State Fault Refusal :=
  if s.busy then .refused (.notEnabled "ENG_ACCEPT") else accept s

/-- ENG_STEP (R143): `require BUSY = 1 and CNT != LEN_L`; one byte is read at BASE_L + CNT and folded into ACC. No step
where the platform does not admit the read (20_memory.md R56). -/
def execEngStep (s : State) : Host.Outcome State Fault Refusal :=
  if s.busy && !allConsumed s then
    match memRead s (bufferAddr s) with
    | some b => .next (consume b s)
    | none => .fault (.readNotAdmitted (bufferAddr s))
  else .refused (.notEnabled "ENG_STEP")

/-- ENG_FINISH (R144): `require BUSY = 1 and CNT = LEN_L`; BUSY <- 0, DONE <- 1. -/
def execEngFinish (s : State) : Host.Outcome State Fault Refusal :=
  if s.busy && allConsumed s then .next (flagsFinished s) else .refused (.notEnabled "ENG_FINISH")

end Sys2Proof.Machine
end

