-- ==== Sys2Proof/Machine/HostRead.lean ====
section
/-! DEFINITION. The host's register reads (42_host_access.md R173, R176 to R178, R180, R182 to R184). No read has a side
effect (20_memory.md R59). -/

namespace Sys2Proof.Machine

/-- RD_BASE (R173): RDATA <- zext_32(BASE). -/
def execRdBase (s : State) : Host.Outcome State Fault Refusal := .next (reply (baseRead s) s)

/-- RD_LEN (R176): RDATA <- zext_32(LEN). -/
def execRdLen (s : State) : Host.Outcome State Fault Refusal := .next (reply (lenRead s) s)

/-- RD_CTRL (R177): RDATA <- 0. -/
def execRdCtrl (s : State) : Host.Outcome State Fault Refusal := .next (reply zeroRead s)

/-- RD_STATUS (R178): RDATA <- zext_32({DONE, BUSY}). -/
def execRdStatus (s : State) : Host.Outcome State Fault Refusal := .next (reply (statusWord s) s)

/-- RD_RESULT (R180): zext_32(ACC) while DONE = 1, else a fresh free 16-bit value at each read. -/
def execRdResult (s : State) : Host.Outcome State Fault Refusal :=
  if s.done then .next (reply (accRead s) s) else .next (drawn (reply (unspecifiedRead s) s))

/-- RD_RSVD_14 (R182): RDATA <- 0. -/
def execRdRsvd14 (s : State) : Host.Outcome State Fault Refusal := .next (reply zeroRead s)

/-- RD_RSVD_18 (R183): RDATA <- 0. -/
def execRdRsvd18 (s : State) : Host.Outcome State Fault Refusal := .next (reply zeroRead s)

/-- RD_RSVD_1C (R184): RDATA <- 0. -/
def execRdRsvd1C (s : State) : Host.Outcome State Fault Refusal := .next (reply zeroRead s)

end Sys2Proof.Machine
end

