-- ==== Sys2Proof/Machine/HostWrite.lean ====
section
/-! DEFINITION. The host's register writes (42_host_access.md R171, R172, R174, R175, R179, R181, R185 to R187). -/

namespace Sys2Proof.Machine

/-- WR_BASE (R171): BASE <- DATA[ADDR_W-1:0]. -/
def execWrBase (data : Word) (s : State) : Host.Outcome State Fault Refusal :=
  .next (setBase (addrField s.plat data) s)

/-- WR_LEN (R172): LEN <- DATA[15:0]. -/
def execWrLen (data : Word) (s : State) : Host.Outcome State Fault Refusal := .next (setLen (lenField data) s)

/-- WR_CTRL (R174): ENG_ACCEPT if DATA[0] = 1 and BUSY = 0, else no effect (R175 where BUSY = 1). -/
def execWrCtrl (data : Word) (s : State) : Host.Outcome State Fault Refusal :=
  if startBit data && !s.busy then accept s else .next s

/-- WR_STATUS (R179): no effect. -/
def execWrStatus (_data : Word) (s : State) : Host.Outcome State Fault Refusal := .next s

/-- WR_RESULT (R181): no effect. -/
def execWrResult (_data : Word) (s : State) : Host.Outcome State Fault Refusal := .next s

/-- WR_RSVD_14 (R185): no effect. -/
def execWrRsvd14 (_data : Word) (s : State) : Host.Outcome State Fault Refusal := .next s

/-- WR_RSVD_18 (R186): no effect. -/
def execWrRsvd18 (_data : Word) (s : State) : Host.Outcome State Fault Refusal := .next s

/-- WR_RSVD_1C (R187): no effect. -/
def execWrRsvd1C (_data : Word) (s : State) : Host.Outcome State Fault Refusal := .next s

end Sys2Proof.Machine
end

