-- ==== Sys2Proof/Machine/Dispatch.lean ====
section
/-! DEFINITION. The one match that gives every operation its meaning. -/

namespace Sys2Proof.Machine

/-- The meaning of each row of spec/opcode_table.json. -/
def exec (i : Instr) (s : State) : Host.Outcome State Fault Refusal :=
  match i with
  | .rdBase => Sys2Proof.Machine.execRdBase s
  | .rdLen => Sys2Proof.Machine.execRdLen s
  | .rdCtrl => Sys2Proof.Machine.execRdCtrl s
  | .rdStatus => Sys2Proof.Machine.execRdStatus s
  | .rdResult => Sys2Proof.Machine.execRdResult s
  | .rdRsvd14 => Sys2Proof.Machine.execRdRsvd14 s
  | .rdRsvd18 => Sys2Proof.Machine.execRdRsvd18 s
  | .rdRsvd1C => Sys2Proof.Machine.execRdRsvd1C s
  | .wrBase data => Sys2Proof.Machine.execWrBase data s
  | .wrLen data => Sys2Proof.Machine.execWrLen data s
  | .wrCtrl data => Sys2Proof.Machine.execWrCtrl data s
  | .wrStatus data => Sys2Proof.Machine.execWrStatus data s
  | .wrResult data => Sys2Proof.Machine.execWrResult data s
  | .wrRsvd14 data => Sys2Proof.Machine.execWrRsvd14 data s
  | .wrRsvd18 data => Sys2Proof.Machine.execWrRsvd18 data s
  | .wrRsvd1C data => Sys2Proof.Machine.execWrRsvd1C data s
  | .engAccept => Sys2Proof.Machine.execEngAccept s
  | .engStep => Sys2Proof.Machine.execEngStep s
  | .engFinish => Sys2Proof.Machine.execEngFinish s

end Sys2Proof.Machine
end

