-- ==== Sys2Proof/Machine/Events.lean ====
section
/-! DEFINITION. What each event of the total order does (20_memory.md R62): a host access on its way to the block (R58,
R60, 30_encoding.md R88), the engine's turn (41_engine_sequencer.md R142), another agent's store (R63) and reset. -/

namespace Sys2Proof.Machine

/-- Where a host access goes. -/
inductive Route where
  /-- an access wholly outside the 32-byte window: it does "not reach the block" (R88) -/
  | outside
  /-- a transaction of the block: its HT key and data (R81) -/
  | reaches (key : BitVec 6) (data : Word)
  /-- an access of the window that is not 32 bits wide (R58) -/
  | badWidth (bytes : Nat)
  /-- a 32-bit access that begins below the window and ends inside it, so at no aligned offset (R58) -/
  | straddles (addr : Nat)
deriving DecidableEq, Repr

/-- Where an access goes on a platform whose window stands at REG_BASE (R60). -/
def routeAccess (p : Platform) (a : HostAccess) : Route :=
  if a.addr + a.bytes ≤ p.regBase ∨ p.regBase + Config.windowBytes ≤ a.addr then .outside
  else if a.bytes ≠ 4 then .badWidth a.bytes
  else if a.addr < p.regBase then .straddles a.addr
  else .reaches (makeKey a.write (BitVec.ofNat 5 (a.addr - p.regBase))) a.data

/-- A host access as one atomic event (42_host_access.md R170): the transaction it decodes to, or nothing where it does
not reach the block. (The last line is for the type's sake: `decodeHT` never answers `engineIdle`, law
`decodeHT_not_idle`.) -/
def hostTurn (a : HostAccess) (s : State) : Host.Outcome State Fault Refusal :=
  match routeAccess s.plat a with
  | .outside => .next s
  | .badWidth n => .refused (.accessWidth n)
  | .straddles n => .refused (.straddlesWindow n)
  | .reaches key data =>
    match decodeHT key data with
    | .ok i => exec i s
    | .rejected (.misaligned off) => .refused (.misalignedAccess off)
    | .rejected .engineIdle => .refused (.notEnabled "HT")

/-- The engine's turn: the micro-operation EC selects (R83, R142). An engine that has none, idle or stuck (R56), takes no
step, and the state stays as it is (60_exceptions.md R222; log entry 5). -/
def engineTurn (s : State) : Host.Outcome State Fault Refusal :=
  if !s.busy || engineStuck s then .next s
  else
    match decodeEC (ecWord s) with
    | .ok i => exec i s
    | .rejected _ => .next s

/-- Another agent's store (R63): to a byte of the buffer space. -/
def storeTurn (a : Nat) (b : Byte) (s : State) : Host.Outcome State Fault Refusal :=
  if inSpace s.plat a then .next (storeByte a b s) else .refused (.outsideBufferSpace a)

/-- One event, taken in the state from whose inbox it is gone. -/
def takeEvent (e : Event) (s : State) : Host.Outcome State Fault Refusal :=
  match e with
  | .host a => hostTurn a s
  | .engine => engineTurn s
  | .store a b => storeTurn a b s
  | .reset => .next (resetBlock s)

/-- The event that stands for a number of the opcode table, and the state in which it can happen (log entry 6). An HT
word is a host access at REG_BASE + OFF. An EC word is not stored anywhere: it is a condition of the state, so the state
is that of a computation just accepted at address 0, of one byte for ENG_STEP and of none for ENG_FINISH. A number with
bits that no format has stands as a one-byte access, which the block refuses. -/
def placeTableWord (nbits w : Nat) (s : State) : State :=
  match tableCode nbits w with
  | some (.ht key data) => { s with inbox := .host (accessOf s.plat.regBase key data) :: s.inbox }
  | some (.ec e) =>
    if e.getLsbD 1 then
      latch 0#32 (if e.getLsbD 0 then 0#16 else 1#16) { s with inbox := .engine :: s.inbox }
    else { flagsReset s with inbox := .engine :: s.inbox }
  | none =>
    { s with
      inbox :=
        .host { write := false, addr := s.plat.regBase, bytes := 1, data := 0#32 } :: s.inbox }

end Sys2Proof.Machine
end

