-- ==== Sys2Proof/Machine/Step.lean ====
section
/-! DEFINITION. One step of the machine: one event of the total order of 20_memory.md R62. -/

namespace Sys2Proof.Machine

/-- One event: the first pending one, or, when none is pending, the engine's turn (R142: the engine takes an enabled
micro-operation after a finite delay). -/
def step (s : State) : Host.Outcome State Fault Refusal :=
  match s.inbox with
  | [] => engineTurn s
  | e :: _ => takeEvent e (popEvent s)

/-- The state with the instruction of a table number as its very next event. -/
def State.withFetchWord (s : State) (nbits w : Nat) : State := placeTableWord nbits w s

end Sys2Proof.Machine
end

