-- ==== Sys2Proof/Safety.lean ====
section
/-! DEFINITION. What claims are made of: the invariant of 10_state.md R35, runs, and the phase table of
41_engine_sequencer.md R140. -/

namespace Sys2Proof.Machine

/-- The buffer reads a computation at `a` has made when `n` bytes are consumed: addresses a, a + 1, …, each once, in
ascending order (20_memory.md R53). -/
def readAddrs (a : Nat) : Nat → List Nat
  | 0 => []
  | n + 1 => a :: readAddrs (a + 1) n

/-- R35 with R53 for a computation under way or finished: CNT ≤ LEN_L, the record of reads is the CNT reads from BASE_L
on, all inside the buffer space (R55), and ACC is FOLD of 0xFFFF over the bytes read. -/
structure ComputationInv (s : State) : Prop where
  cnt_le   : s.cnt.toNat ≤ s.lenL.toNat
  addrs    : s.readLog.map Prod.fst = readAddrs s.baseL.toNat s.cnt.toNat
  folded   : s.acc = fold Config.init (s.readLog.map Prod.snd)
  in_space : s.lenL = 0#16 ∨ s.baseL.toNat + s.lenL.toNat ≤ 2 ^ s.plat.addrW

/-- What holds in every reachable state (R35 1 to 3), with the canonical form of memory, the reserved bits of
BASE and BASE_L reading as zero (R29), and a legal ADDR_W (R8). R35 4 needs no clause: T is a constant. -/
structure State.Inv (s : State) : Prop where
  plat_wf    : s.plat.wf = true
  mem_wf     : Memory.wf s.mem = true
  base_field : s.base.toNat < 2 ^ s.plat.addrW
  latch_field : s.baseL.toNat < 2 ^ s.plat.addrW
  one_phase  : ¬ (s.busy = true ∧ s.done = true)
  running    : s.busy = true → ComputationInv s
  finished   : s.done = true → ComputationInv s ∧ s.cnt = s.lenL

/-- `k` steps from a state, stopping at the first fault or refusal. -/
def runSteps : Nat → State → Host.Outcome State Fault Refusal
  | 0, s => .next s
  | k + 1, s =>
    match step s with
    | .next t => runSteps k t
    | .fault f => .fault f
    | .refused r => .refused r

/-- The phase changes of R140, less reset (R240). A START that is ignored, every other transaction and every step of
another agent leave the phase. -/
def phaseStep : Phase → Phase → Bool
  | .idle, .idle => true
  | .idle, .run => true
  | .run, .run => true
  | .run, .result => true
  | .result, .result => true
  | .result, .run => true
  | .idle, .result => false
  | .run, .idle => false
  | .result, .idle => false

/-- The operation, in this state, performs ENG_ACCEPT (41_engine_sequencer.md R141, 42_host_access.md R174): a START
written while BUSY = 0, or ENG_ACCEPT itself. -/
def acceptsStart (i : Instr) (s : State) : Bool :=
  match i with
  | .rdBase => false
  | .rdLen => false
  | .rdCtrl => false
  | .rdStatus => false
  | .rdResult => false
  | .rdRsvd14 => false
  | .rdRsvd18 => false
  | .rdRsvd1C => false
  | .wrBase _ => false
  | .wrLen _ => false
  | .wrStatus _ => false
  | .wrResult _ => false
  | .wrRsvd14 _ => false
  | .wrRsvd18 _ => false
  | .wrRsvd1C _ => false
  | .wrCtrl data => startBit data && !s.busy
  | .engAccept => !s.busy
  | .engStep => false
  | .engFinish => false

/-- The access is one that writes START (R174): it reaches the block as WR_CTRL with DATA[0] = 1. -/
def isStartAccess (p : Platform) (a : HostAccess) : Bool :=
  match routeAccess p a with
  | .outside => false
  | .badWidth _ => false
  | .straddles _ => false
  | .reaches key data => decide (key = HtOp.wrCtrl.key) && startBit data

/-- The operation writes BASE, LEN or CTRL, the registers that program a computation (42_host_access.md R171, R172,
R174). -/
def writesProgram : HtOp → Bool
  | .wrBase => true
  | .wrLen => true
  | .wrCtrl => true
  | .rdBase => false
  | .rdLen => false
  | .rdCtrl => false
  | .rdStatus => false
  | .rdResult => false
  | .rdRsvd14 => false
  | .rdRsvd18 => false
  | .rdRsvd1C => false
  | .wrStatus => false
  | .wrResult => false
  | .wrRsvd14 => false
  | .wrRsvd18 => false
  | .wrRsvd1C => false

/-- What may stand between the transactions of a host's call by the conditions of 42_host_access.md R188: the engine's
turns, stores of other agents to the buffer space, and every host's accesses that do not write BASE, LEN or CTRL (the
caller's own polls of STATUS among them) and that the block does not refuse (R58). Reset abandons the call (R241). -/
def bystander (p : Platform) : Event → Bool
  | .engine => true
  | .host a =>
    match routeAccess p a with
    | .outside => true
    | .badWidth _ => false
    | .straddles _ => false
    | .reaches key _ =>
      match decodeKey key with
      | .ok op => !writesProgram op
      | .rejected _ => false
  | .store a _ => inSpace p a
  | .reset => false

/-- How many turns of the engine a list of events holds. -/
def engineTurns : List Event → Nat
  | [] => 0
  | .engine :: es => engineTurns es + 1
  | .host _ :: es => engineTurns es
  | .store _ _ :: es => engineTurns es
  | .reset :: es => engineTurns es

end Sys2Proof.Machine
end

