-- ==== Sys2Proof/Certificates/Slice0/Obligations.lean ====
section
/-! DEFINITION. The statements for the provers, from the numbered rules of spec/. Nothing is proved here. -/

open Sys2Proof Sys2Proof.Machine

/-! ## Encoding and decoding -/

/-- R82: the 16 aligned keys decode to the 16 operations, written out key by key, and every key with OFF[1:0] ≠ 00 is
refused by name. -/
def Obligations.HtKeysDecodeAsListed : Prop :=
  ∀ data : Word,
    (decodeHT 0b000000#6 data = .ok .rdBase ∧ decodeHT 0b100000#6 data = .ok (.wrBase data) ∧
     decodeHT 0b000100#6 data = .ok .rdLen ∧ decodeHT 0b100100#6 data = .ok (.wrLen data) ∧
     decodeHT 0b001000#6 data = .ok .rdCtrl ∧ decodeHT 0b101000#6 data = .ok (.wrCtrl data) ∧
     decodeHT 0b001100#6 data = .ok .rdStatus ∧ decodeHT 0b101100#6 data = .ok (.wrStatus data) ∧
     decodeHT 0b010000#6 data = .ok .rdResult ∧ decodeHT 0b110000#6 data = .ok (.wrResult data) ∧
     decodeHT 0b010100#6 data = .ok .rdRsvd14 ∧ decodeHT 0b110100#6 data = .ok (.wrRsvd14 data) ∧
     decodeHT 0b011000#6 data = .ok .rdRsvd18 ∧ decodeHT 0b111000#6 data = .ok (.wrRsvd18 data) ∧
     decodeHT 0b011100#6 data = .ok .rdRsvd1C ∧ decodeHT 0b111100#6 data = .ok (.wrRsvd1C data)) ∧
    ∀ key : BitVec 6, key.extractLsb' 0 2 ≠ 0#2 →
      decodeHT key data = .rejected (.misaligned (key.extractLsb' 0 5))

/-- R81 to R83, R87: decoding an encoding gives the operation back with every DATA bit; the code of what a word decodes
to is that word (a read's data word, which nothing carries, apart); ENG_ACCEPT's row is WR_CTRL's word with DATA = 1. -/
def Obligations.DecodeAndEncodeAgree : Prop :=
  (∀ i : Instr, i.wellFormed = true → decode (encode i) = .ok i) ∧
  (∀ key data i, decode (.ht key data) = .ok i →
    i.wellFormed = true ∧ ∃ d, encode i = .ht key d ∧ (key.getLsbD 5 = true → d = data)) ∧
  (∀ w i, decode (.ec w) = .ok i → i.wellFormed = true ∧ encode i = .ec w) ∧
  decode (encode .engAccept) = .ok (.wrCtrl 1#32)

/-- R83: EC is {BUSY, CNT == LEN_L}, and it selects no micro-operation, ENG_STEP or ENG_FINISH. -/
def Obligations.EngineConditionSelectsMicroOp : Prop :=
  ∀ s : State,
    ((ecWord s).getLsbD 1 = s.busy ∧ (ecWord s).getLsbD 0 = decide (s.cnt = s.lenL)) ∧
    (s.busy = false → decodeEC (ecWord s) = .rejected .engineIdle) ∧
    (s.busy = true → s.cnt ≠ s.lenL → decodeEC (ecWord s) = .ok .engStep) ∧
    (s.busy = true → s.cnt = s.lenL → decodeEC (ecWord s) = .ok .engFinish)

/-- R90, R91: the eight `rd` lines encode as the keys 0x00 to 0x1C with no data, the eight `wr` lines as the keys 0x20 to
0x3C with their immediate as DATA, at the offsets of R29 to R34; and the lines each pseudo-instruction stands for, with
`wait_done` read as the number of polls that one run of the host's loop makes. -/
def Obligations.AssemblyEncodesAsTransactions : Prop :=
  ((AsmLine.rd .base).code = .ht 0x00#6 0#32 ∧ (AsmLine.rd .len).code = .ht 0x04#6 0#32 ∧
    (AsmLine.rd .ctrl).code = .ht 0x08#6 0#32 ∧ (AsmLine.rd .status).code = .ht 0x0C#6 0#32 ∧
    (AsmLine.rd .result).code = .ht 0x10#6 0#32 ∧ (AsmLine.rd .rsvd14).code = .ht 0x14#6 0#32 ∧
    (AsmLine.rd .rsvd18).code = .ht 0x18#6 0#32 ∧ (AsmLine.rd .rsvd1c).code = .ht 0x1C#6 0#32) ∧
  (∀ imm : Nat,
    (AsmLine.wr .base imm).code = .ht 0x20#6 (BitVec.ofNat 32 imm) ∧
    (AsmLine.wr .len imm).code = .ht 0x24#6 (BitVec.ofNat 32 imm) ∧
    (AsmLine.wr .ctrl imm).code = .ht 0x28#6 (BitVec.ofNat 32 imm) ∧
    (AsmLine.wr .status imm).code = .ht 0x2C#6 (BitVec.ofNat 32 imm) ∧
    (AsmLine.wr .result imm).code = .ht 0x30#6 (BitVec.ofNat 32 imm) ∧
    (AsmLine.wr .rsvd14 imm).code = .ht 0x34#6 (BitVec.ofNat 32 imm) ∧
    (AsmLine.wr .rsvd18 imm).code = .ht 0x38#6 (BitVec.ofNat 32 imm) ∧
    (AsmLine.wr .rsvd1c imm).code = .ht 0x3C#6 (BitVec.ofNat 32 imm)) ∧
  (AsmLine.wr .len 9).code = .ht 0x24#6 0x00000009#32 ∧
  Pseudo.start.expand = [AsmLine.wr .ctrl 1] ∧
  (∀ polls : Nat, (Pseudo.waitDone polls).expand = List.replicate polls (AsmLine.rd .status)) ∧
  (∀ a n polls : Nat, (Pseudo.crc16 a n polls).expand =
    [AsmLine.wr .base a, AsmLine.wr .len n, AsmLine.wr .ctrl 1] ++ List.replicate polls (AsmLine.rd .status)
      ++ [AsmLine.rd .result])

/-! ## A step runs the decoded operation -/

/-- When the first pending event is a transaction of the window whose key decodes to an operation, the step is that
operation in the state from whose inbox the event is gone (R62, R170). Nothing else is added around it. -/
def Obligations.StepRunsTheDecodedTransaction : Prop :=
  ∀ (s : State) (key : BitVec 6) (data : Word) (es : List Event) (i : Instr),
    s.inbox = .host (accessOf s.plat.regBase key data) :: es →
    decodeHT key data = .ok i →
    step s = exec i { s with inbox := es }

/-- On the engine's turn the step is the micro-operation EC selects (R83, R142), unless the next buffer read is not
admitted (R56, stated apart). That the engine's turn comes at once when no event is pending is the model's choice of a
schedule (log entry 10, DESIGN CHOICE), where R142 says only "a finite but unspecified delay". -/
def Obligations.StepRunsTheSelectedMicroOp : Prop :=
  ∀ (s : State) (i : Instr), decodeEC (ecWord s) = .ok i → engineStuck s = false →
    (s.inbox = [] → step s = exec i s) ∧
    (∀ es, s.inbox = .engine :: es → step s = exec i { s with inbox := es })

/-- R222: in IDLE and RESULT the engine takes no step, and it keeps all its state (model's choices: the engine's turn
passes, log entry 5, and it comes when no event is pending, log entry 10). -/
def Obligations.IdleEngineKeepsAllState : Prop :=
  ∀ s : State, s.busy = false →
    (s.inbox = [] → step s = .next s) ∧
    (∀ es, s.inbox = .engine :: es → step s = .next { s with inbox := es })

/-- R56: with BUSY = 1, bytes left and the next read not admitted, ENG_STEP has no step, and the engine stays stuck with
BUSY = 1 however many turns it is given (model's choices: the turn passes, log entry 5, and every turn is the engine's
when no event is pending, log entry 10). -/
def Obligations.UnadmittedReadLeavesEngineStuck : Prop :=
  ∀ s : State, s.busy = true → s.cnt ≠ s.lenL → admits s.plat (s.baseL.toNat + s.cnt.toNat) = false →
    exec .engStep s = .fault (.readNotAdmitted (s.baseL.toNat + s.cnt.toNat)) ∧
    (∀ k, s.inbox = [] → runSteps k s = .next s) ∧
    (∀ es, s.inbox = .engine :: es → step s = .next { s with inbox := es })

/-- R58, R88: a host access that touches the window and is not 32 bits wide, or not at a 4-byte-aligned offset of it, is
refused, by name; an access wholly outside the window does not reach the block. R58 speaks of the width and of the offset;
that an access with any byte in the window reaches the block, and that one which begins below it is refused as
`straddlesWindow`, is the model's deduction (log entry 11, DEDUCED). -/
def Obligations.UnfitHostAccessesAreRefused : Prop :=
  ∀ (s : State) (a : HostAccess) (es : List Event), s.inbox = .host a :: es →
    (s.plat.regBase < a.addr + a.bytes → a.addr < s.plat.regBase + 32 →
      (a.bytes ≠ 4 → step s = .refused (.accessWidth a.bytes)) ∧
      (a.bytes = 4 → a.addr < s.plat.regBase → step s = .refused (.straddlesWindow a.addr)) ∧
      (a.bytes = 4 → s.plat.regBase ≤ a.addr → (a.addr - s.plat.regBase) % 4 ≠ 0 →
        step s = .refused (.misalignedAccess (BitVec.ofNat 5 (a.addr - s.plat.regBase))))) ∧
    (a.addr + a.bytes ≤ s.plat.regBase ∨ s.plat.regBase + 32 ≤ a.addr → step s = .next { s with inbox := es })

/-- R170: every aligned 32-bit access of the window, on every platform, is one of the 16 operations: the one that its own
key `{W, OFF}` and its own data decode to (R81, R82), and no other. -/
def Obligations.EveryWellFormedAccessRunsAnOperation : Prop :=
  ∀ (s : State) (a : HostAccess) (es : List Event), s.inbox = .host a :: es →
    a.wellFormed s.plat = true →
    ∃ i : Instr, i.isHost = true ∧
      decodeHT (makeKey a.write (BitVec.ofNat 5 (a.addr - s.plat.regBase))) a.data = .ok i ∧
      step s = exec i { s with inbox := es }

/-! ## Host reads -/

/-- R173: RD_BASE. The value is what the last WR_BASE stored, not BASE_L; 0 after reset. -/
def Obligations.ReadBaseReturnsBase : Prop :=
  (∀ data, decodeHT 0x00#6 data = .ok .rdBase) ∧
  (∀ s : State, exec .rdBase s = .next { s with rdata := s.base }) ∧
  (∀ (s : State) (data : Word), ∃ t u, exec (.wrBase data) s = .next t ∧ exec .rdBase t = .next u ∧
    u.rdata.toNat = data.toNat % 2 ^ s.plat.addrW) ∧
  exec .rdBase State.reset = .next { State.reset with rdata := 0#32 }

/-- R176: RD_LEN. LEN zero-extended, not LEN_L; bits 31:16 read 0. -/
def Obligations.ReadLenReturnsLen : Prop :=
  (∀ data, decodeHT 0x04#6 data = .ok .rdLen) ∧
  (∀ s : State, exec .rdLen s = .next { s with rdata := BitVec.ofNat 32 s.len.toNat }) ∧
  (∀ (s : State) (data : Word), ∃ t u, exec (.wrLen data) s = .next t ∧ exec .rdLen t = .next u ∧
    u.rdata.toNat = data.toNat % 65536) ∧
  exec .rdLen State.reset = .next { State.reset with rdata := 0#32 }

/-- R177: RD_CTRL returns 0 in every phase and has no side effect. -/
def Obligations.ReadCtrlReturnsZero : Prop :=
  (∀ data, decodeHT 0x08#6 data = .ok .rdCtrl) ∧
  (∀ s : State, exec .rdCtrl s = .next { s with rdata := 0#32 })

/-- R178: RD_STATUS: bit 0 is BUSY, bit 1 is DONE, all other bits are 0; the read clears nothing; 0x3 never occurs in a
state of the invariant. -/
def Obligations.ReadStatusShowsBusyAndDone : Prop :=
  (∀ data, decodeHT 0x0C#6 data = .ok .rdStatus) ∧
  (∀ s : State, ∃ v : Word, exec .rdStatus s = .next { s with rdata := v } ∧
    v.getLsbD 0 = s.busy ∧ v.getLsbD 1 = s.done ∧ v.toNat < 4 ∧ (State.Inv s → v ≠ 3#32)) ∧
  exec .rdStatus State.reset = .next { State.reset with rdata := 0#32 }

/-- R180: RD_RESULT: zext_32(ACC) while DONE = 1, and a further read gives the same; while DONE = 0 some 16-bit value,
of which nothing is said but that bits 31:16 are 0 (the draw counter is the model's own, log entry 2). -/
def Obligations.ReadResultReturnsAccWhenDone : Prop :=
  (∀ data, decodeHT 0x10#6 data = .ok .rdResult) ∧
  (∀ s : State, s.done = true →
    exec .rdResult s = .next { s with rdata := BitVec.ofNat 32 s.acc.toNat } ∧
    exec .rdResult { s with rdata := BitVec.ofNat 32 s.acc.toNat } =
      .next { s with rdata := BitVec.ofNat 32 s.acc.toNat }) ∧
  (∀ s : State, s.done = false → ∃ v : Half,
    exec .rdResult s = .next { s with rdata := BitVec.ofNat 32 v.toNat, draws := s.draws + 1 })

/-- R182, R183, R184: the reserved offsets read 0 and nothing changes. -/
def Obligations.ReservedOffsetsReadZero : Prop :=
  (∀ data, decodeHT 0x14#6 data = .ok .rdRsvd14 ∧ decodeHT 0x18#6 data = .ok .rdRsvd18 ∧
    decodeHT 0x1C#6 data = .ok .rdRsvd1C) ∧
  (∀ s : State, exec .rdRsvd14 s = .next { s with rdata := 0#32 } ∧
    exec .rdRsvd18 s = .next { s with rdata := 0#32 } ∧ exec .rdRsvd1C s = .next { s with rdata := 0#32 })

/-! ## Host writes -/

/-- R171: WR_BASE stores DATA[ADDR_W-1:0] for every ADDR_W, and changes nothing else (BASE_L among it). -/
def Obligations.WriteBaseKeepsAddressBits : Prop :=
  (∀ data, decodeHT 0x20#6 data = .ok (.wrBase data)) ∧
  (∀ (s : State) (data : Word), ∃ v : Word, exec (.wrBase data) s = .next { s with base := v } ∧
    v.toNat = data.toNat % 2 ^ s.plat.addrW ∧
    ∀ k, v.getLsbD k = (decide (k < s.plat.addrW) && data.getLsbD k))

/-- R172: WR_LEN stores DATA[15:0] and changes nothing else (LEN_L among it); 0x00010000 gives 0. -/
def Obligations.WriteLenKeepsLowHalf : Prop :=
  (∀ data, decodeHT 0x24#6 data = .ok (.wrLen data)) ∧
  (∀ (s : State) (data : Word), exec (.wrLen data) s = .next { s with len := BitVec.ofNat 16 data.toNat }) ∧
  (∀ s : State, exec (.wrLen 0x00010000#32) s = .next { s with len := 0#16 }) ∧
  (∀ s : State, exec (.wrLen 9#32) s = .next { s with len := 9#16 })

/-- R174: WR_CTRL with DATA[0] = 1 and BUSY = 0 performs ENG_ACCEPT (from RESULT too, and with LEN = 0); a buffer that
would pass the top of the buffer space is refused (R55); otherwise nothing happens, whatever DATA[31:1]. The
record of reads that starts anew is the model's own (log entry 8). -/
def Obligations.WriteCtrlStartsWhenIdle : Prop :=
  (∀ data, decodeHT 0x28#6 data = .ok (.wrCtrl data)) ∧
  (∀ (s : State) (data : Word), data.getLsbD 0 = true → s.busy = false →
    (s.len = 0#16 ∨ s.base.toNat + s.len.toNat ≤ 2 ^ s.plat.addrW →
      exec (.wrCtrl data) s =
        .next { s with baseL := s.base, lenL := s.len, cnt := 0#16, acc := 0xFFFF#16, done := false, busy := true,
                       readLog := [] }) ∧
    (s.len ≠ 0#16 → 2 ^ s.plat.addrW < s.base.toNat + s.len.toNat →
      exec (.wrCtrl data) s = .refused .bufferWraps)) ∧
  (∀ (s : State) (data : Word), data.getLsbD 0 = false → exec (.wrCtrl data) s = .next s) ∧
  (∀ (s : State) (data : Word), s.busy = true → exec (.wrCtrl data) s = .next s)

/-- R175, R213: a START ordered before ENG_FINISH is ignored and the computation ends; ordered after it, the START is
accepted and begins a new computation (the record of its reads is the model's own, log entry 8). -/
def Obligations.StartAndFinishContend : Prop :=
  ∀ (s : State) (data : Word), s.busy = true → s.cnt = s.lenL → data.getLsbD 0 = true →
    (s.len = 0#16 ∨ s.base.toNat + s.len.toNat ≤ 2 ^ s.plat.addrW) →
    (∀ es, s.inbox = .host (accessOf s.plat.regBase 0x28#6 data) :: .engine :: es →
      runSteps 2 s = .next { s with inbox := es, busy := false, done := true }) ∧
    (∀ es, s.inbox = .engine :: .host (accessOf s.plat.regBase 0x28#6 data) :: es →
      runSteps 2 s = .next { s with inbox := es, busy := true, done := false, baseL := s.base, lenL := s.len,
                                    cnt := 0#16, acc := 0xFFFF#16, readLog := [] })

/-- R179, R181, R185, R186, R187: writes of STATUS, RESULT and the reserved offsets change nothing at all. -/
def Obligations.WritesWithoutEffect : Prop :=
  (∀ data, decodeHT 0x2C#6 data = .ok (.wrStatus data) ∧ decodeHT 0x30#6 data = .ok (.wrResult data) ∧
    decodeHT 0x34#6 data = .ok (.wrRsvd14 data) ∧ decodeHT 0x38#6 data = .ok (.wrRsvd18 data) ∧
    decodeHT 0x3C#6 data = .ok (.wrRsvd1C data)) ∧
  (∀ (s : State) (data : Word), exec (.wrStatus data) s = .next s ∧ exec (.wrResult data) s = .next s ∧
    exec (.wrRsvd14 data) s = .next s ∧ exec (.wrRsvd18 data) s = .next s ∧ exec (.wrRsvd1C data) s = .next s)

/-! ## The engine -/

/-- R141: ENG_ACCEPT: with BUSY = 0 it latches BASE and LEN, clears CNT and DONE, sets ACC to 0xFFFF and BUSY; a buffer
that would wrap is refused; its `require` line bars BUSY = 1 (model's choice of a refusal, log entry 13); with LEN = 0
the next micro-operation is ENG_FINISH. The record of reads is the model's own (log entry 8). -/
def Obligations.AcceptLatchesAndInitialises : Prop :=
  (∀ s : State, s.busy = false → (s.len = 0#16 ∨ s.base.toNat + s.len.toNat ≤ 2 ^ s.plat.addrW) →
    exec .engAccept s =
      .next { s with baseL := s.base, lenL := s.len, cnt := 0#16, acc := 0xFFFF#16, done := false, busy := true,
                     readLog := [] }) ∧
  (∀ s : State, s.busy = false → s.len ≠ 0#16 → 2 ^ s.plat.addrW < s.base.toNat + s.len.toNat →
    exec .engAccept s = .refused .bufferWraps) ∧
  (∀ s : State, s.busy = true → exec .engAccept s = .refused (.notEnabled "ENG_ACCEPT")) ∧
  (∀ s t : State, exec .engAccept s = .next t →
    (s.len = 0#16 → decodeEC (ecWord t) = .ok .engFinish) ∧ (s.len ≠ 0#16 → decodeEC (ecWord t) = .ok .engStep))

/-- R143: ENG_STEP: with BUSY = 1, CNT ≠ LEN_L and the read admitted, the byte at BASE_L + CNT goes into ACC by the step
formula, CNT advances by one, without wrap, and nothing else of the engine changes. The record of reads is the model's
own (log entry 8); the refusal where the `require` line fails is its choice (log entry 13). -/
def Obligations.EngStepConsumesOneByte : Prop :=
  (∀ s : State, s.busy = true → s.cnt ≠ s.lenL → admits s.plat (s.baseL.toNat + s.cnt.toNat) = true →
    exec .engStep s =
      .next { s with
        acc := T (s.acc.extractLsb' 0 8 ^^^ Memory.read s.mem (s.baseL.toNat + s.cnt.toNat)) ^^^ (s.acc >>> 8)
        cnt := s.cnt + 1#16
        readLog := s.readLog ++
          [(s.baseL.toNat + s.cnt.toNat, Memory.read s.mem (s.baseL.toNat + s.cnt.toNat))] }) ∧
  (∀ s t : State, State.Inv s → exec .engStep s = .next t → t.cnt.toNat = s.cnt.toNat + 1) ∧
  (∀ s : State, s.busy = false ∨ s.cnt = s.lenL → exec .engStep s = .refused (.notEnabled "ENG_STEP"))

/-- R144: ENG_FINISH: with BUSY = 1 and CNT = LEN_L it writes BUSY <- 0 and DONE <- 1, ACC stays, and RESULT then reads
ACC. The refusal as `notEnabled` where the `require` line of R144 fails is the model's choice (log entry 13, DESIGN
CHOICE). -/
def Obligations.FinishPublishesResult : Prop :=
  (∀ s : State, s.busy = true → s.cnt = s.lenL →
    exec .engFinish s = .next { s with busy := false, done := true } ∧
    exec .rdResult { s with busy := false, done := true } =
      .next { s with busy := false, done := true, rdata := BitVec.ofNat 32 s.acc.toNat }) ∧
  (∀ s : State, s.busy = false ∨ s.cnt ≠ s.lenL → exec .engFinish s = .refused (.notEnabled "ENG_FINISH"))

/-! ## Reset and the other agents -/

/-- R36: what reset leaves, and what the registers then read; ACC, CNT, BASE_L and LEN_L are unspecified and not spoken
of. -/
def Obligations.ResetStateValues : Prop :=
  State.reset.busy = false ∧ State.reset.done = false ∧ State.reset.base = 0#32 ∧ State.reset.len = 0#16 ∧
  (∃ t, exec .rdCtrl State.reset = .next t ∧ t.rdata = 0#32) ∧
  (∃ t, exec .rdStatus State.reset = .next t ∧ t.rdata = 0#32) ∧
  phase State.reset = some .idle

/-- R240, R241: the reset event, in any state: BUSY, DONE, BASE and LEN are 0, the four unspecified elements take some
value each, and the memory and the platform stay. RDATA, the record of reads and the draw counter are the model's own
(log entries 2, 7, 8). -/
def Obligations.ResetEventClearsTheBlock : Prop :=
  ∀ (s : State) (es : List Event), s.inbox = .reset :: es →
    ∃ (acc cnt lenL : Half) (baseL : Word), baseL.toNat < 2 ^ s.plat.addrW ∧
      step s = .next { s with inbox := es, busy := false, done := false, base := 0#32, len := 0#16, acc := acc,
                              cnt := cnt, baseL := baseL, lenL := lenL, draws := s.draws + 4, readLog := [] }

/-- R63: another agent's store changes the byte at its address and no other, and nothing of the engine; the engine's
later read of it returns that byte; a store outside the buffer space is refused (the model's choice, log entry 9). -/
def Obligations.StoresOfOthersReachTheBuffer : Prop :=
  ∀ (s : State) (a : Nat) (b : Byte) (es : List Event), s.inbox = .store a b :: es →
    (a < 2 ^ s.plat.addrW → ∃ m : Memory, step s = .next { s with inbox := es, mem := m } ∧
      Memory.read m a = b ∧ (∀ x, x ≠ a → Memory.read m x = Memory.read s.mem x) ∧
      (admits s.plat a = true → memRead { s with mem := m } a = some b)) ∧
    (2 ^ s.plat.addrW ≤ a → step s = .refused (.outsideBufferSpace a))

/-! ## Frames: who writes what -/

/-- After R51: no operation of the block writes the buffer: all of memory reads as before; a step changes memory only
where another agent's store is the event. R51 speaks of the engine; the rest is the model's: memory survives the reset
event (log entry 7, DEDUCED), the platform is constant data (log entry 1, DESIGN CHOICE), and an operation leaves the list
of pending events alone (log entry 10, DESIGN CHOICE). -/
def Obligations.NoOperationWritesMemory : Prop :=
  (∀ (i : Instr) (s t : State), exec i s = .next t →
    t.mem = s.mem ∧ (∀ a, Memory.read t.mem a = Memory.read s.mem a) ∧ t.plat = s.plat ∧ t.inbox = s.inbox) ∧
  (∀ s t : State, step s = .next t → (∀ a b, s.inbox.head? ≠ some (.store a b)) → t.mem = s.mem)

/-- R22: ACC is written only by accepting a START, with 0xFFFF, and by each STEP, with CRC_STEP of the byte read. -/
def Obligations.AccWrittenOnlyByAcceptAndStep : Prop :=
  ∀ (i : Instr) (s t : State), exec i s = .next t →
    (acceptsStart i s = true → t.acc = 0xFFFF#16) ∧
    (i = .engStep → ∃ b, memRead s (s.baseL.toNat + s.cnt.toNat) = some b ∧ t.acc = crcStep s.acc b) ∧
    (acceptsStart i s = false → i ≠ .engStep → t.acc = s.acc)

/-- R23: CNT is written only by accepting a START, with 0, and by each STEP, with CNT + 1. -/
def Obligations.CntWrittenOnlyByAcceptAndStep : Prop :=
  ∀ (i : Instr) (s t : State), exec i s = .next t →
    (acceptsStart i s = true → t.cnt = 0#16) ∧
    (i = .engStep → t.cnt = s.cnt + 1#16) ∧
    (acceptsStart i s = false → i ≠ .engStep → t.cnt = s.cnt)

/-- R24, R25: BASE_L and LEN_L are copies of BASE and LEN taken when a START is accepted, and nothing else writes
them: not a host write of BASE or LEN during a computation. -/
def Obligations.LatchesWrittenOnlyByAccept : Prop :=
  ∀ (i : Instr) (s t : State), exec i s = .next t →
    (acceptsStart i s = true → t.baseL = s.base ∧ t.lenL = s.len) ∧
    (acceptsStart i s = false → t.baseL = s.baseL ∧ t.lenL = s.lenL)

/-- R26, R27: the only writes of BUSY and DONE: accepting a START and FINISH. -/
def Obligations.FlagsWrittenOnlyByAcceptAndFinish : Prop :=
  ∀ (i : Instr) (s t : State), exec i s = .next t →
    (acceptsStart i s = true → t.busy = true ∧ t.done = false) ∧
    (i = .engFinish → t.busy = false ∧ t.done = true) ∧
    (acceptsStart i s = false → i ≠ .engFinish → t.busy = s.busy ∧ t.done = s.done)

/-- R29, R30, R59: BASE is written only by WR_BASE and LEN only by WR_LEN. -/
def Obligations.BaseAndLenWrittenOnlyByTheirWrites : Prop :=
  ∀ (i : Instr) (s t : State), exec i s = .next t →
    ((∀ data, i ≠ .wrBase data) → t.base = s.base) ∧ ((∀ data, i ≠ .wrLen data) → t.len = s.len)

/-- R59: no read has a side effect: RDATA apart (and the model's draw counter, log entry 2), the state is as before. -/
def Obligations.ReadsHaveNoSideEffect : Prop :=
  ∀ (s : State) (i : Instr),
    i = .rdBase ∨ i = .rdLen ∨ i = .rdCtrl ∨ i = .rdStatus ∨ i = .rdResult ∨ i = .rdRsvd14 ∨ i = .rdRsvd18 ∨
      i = .rdRsvd1C →
    ∃ (v : Word) (n : Nat), exec i s = .next { s with rdata := v, draws := n }

/-- R37: no read shows CNT, BASE_L or LEN_L, and none shows ACC while DONE = 0: two states that differ in those alone
answer every read with the same RDATA. R37 gives that ACC is hidden while DONE = 0; that RD_RESULT then returns the same
value in both states rests on the model's draw counter, the same in both (log entry 2, DESIGN CHOICE, unsafe for a claim
that compares two runs): the spec lets the two unspecified values differ. -/
def Obligations.HiddenStateIsNotReadable : Prop :=
  ∀ (s t₁ t₂ : State) (i : Instr) (acc cnt lenL : Half) (baseL : Word),
    (i = .rdBase ∨ i = .rdLen ∨ i = .rdCtrl ∨ i = .rdStatus ∨ i = .rdResult ∨ i = .rdRsvd14 ∨ i = .rdRsvd18 ∨
      i = .rdRsvd1C) →
    (s.done = true → acc = s.acc) →
    exec i s = .next t₁ → exec i { s with acc := acc, cnt := cnt, lenL := lenL, baseL := baseL } = .next t₂ →
    t₁.rdata = t₂.rdata

/-- R170: every host operation completes in its one event, with no exception and no wait, and leaves ACC, CNT, BASE_L,
LEN_L and the buffer memory alone, except WR_CTRL through ENG_ACCEPT. The one refusal is the START of R55. -/
def Obligations.HostOperationsCompleteInOneEvent : Prop :=
  ∀ (i : Instr) (s : State), i.isHost = true →
    (acceptsStart i s = true ∧ s.len ≠ 0#16 ∧ 2 ^ s.plat.addrW < s.base.toNat + s.len.toNat ∧
      exec i s = .refused .bufferWraps) ∨
    (∃ t, exec i s = .next t ∧ t.mem = s.mem ∧
      (acceptsStart i s = false → t.acc = s.acc ∧ t.cnt = s.cnt ∧ t.baseL = s.baseL ∧ t.lenL = s.lenL ∧
        t.busy = s.busy ∧ t.done = s.done))

/-! ## Invariants and phases -/

/-- The invariant of R35 holds at reset, on the platform and with the drawn values that State.reset names (log entries 1
and 3, DESIGN CHOICE). -/
def Obligations.ResetMeetsTheInvariant : Prop := State.Inv State.reset

/-- R35: from every state of the invariant, whatever event comes, a step that answers a next state keeps it: never BUSY
and DONE together; while BUSY, CNT ≤ LEN_L and ACC is FOLD(0xFFFF, …) over the bytes read, at BASE_L, BASE_L + 1, … in
order, each once (R53); once DONE, CNT = LEN_L; memory canonical; BASE and BASE_L inside ADDR_W bits. The record of
reads is the model's own (log entry 8). -/
def Obligations.EveryStepKeepsTheInvariant : Prop :=
  ∀ s t : State, State.Inv s → step s = .next t → State.Inv t

/-- R140: the engine is in exactly one phase, and each step makes one of the table's transitions or none: RUN is left
for RESULT only, and only on the engine's turn with CNT = LEN_L; it is entered only by a host's START; reset enters
IDLE from every phase. That the engine's turn also comes when no event is pending is the model's schedule (log entry 10,
DESIGN CHOICE). -/
def Obligations.PhasesChangeOnlyAsTheTableSays : Prop :=
  ∀ (s t : State) (p : Phase), phase s = some p → step s = .next t →
    (s.inbox.head? = some .reset → phase t = some .idle) ∧
    (s.inbox.head? ≠ some .reset → ∃ q, phase t = some q ∧ phaseStep p q = true ∧
      (p = .run → q = .result →
        s.cnt = s.lenL ∧ (s.inbox = [] ∨ s.inbox.head? = some .engine)) ∧
      (p ≠ .run → q = .run →
        ∃ a, s.inbox.head? = some (.host a) ∧ isStartAccess s.plat a = true))

/-- R64: DONE falls only by a START that is accepted, or by reset (R240); until then the result stands: ACC and DONE are
as they were after any number of steps none of whose events is a START or reset, whatever events come later, and
RD_RESULT returns that ACC. -/
def Obligations.ResultStandsUntilTheNextStart : Prop :=
  (∀ s t : State, s.done = true → step s = .next t → t.done = false →
    s.inbox.head? = some .reset ∨
    ∃ a, s.inbox.head? = some (.host a) ∧ isStartAccess s.plat a = true ∧ s.busy = false ∧ t.busy = true) ∧
  ∀ (k : Nat) (s t : State), State.Inv s → s.done = true → runSteps k s = .next t →
    (∀ e, e ∈ s.inbox.take k → e ≠ .reset ∧ ∀ a, e = .host a → isStartAccess s.plat a = false) →
    t.done = true ∧ t.acc = s.acc ∧ exec .rdResult t = .next { t with rdata := BitVec.ofNat 32 s.acc.toNat }

/-! ## The CRC -/

/-- R110, R123: every entry of the ROM is the one the bit-level algorithm generates: BITSTEP applied 8 times to the
index. -/
def Obligations.RomIsTheGeneratedTable : Prop :=
  (∀ r : Half, bitStep r = (r >>> 1) ^^^ (if r.getLsbD 0 then 0xA001#16 else 0x0000#16)) ∧
  ∀ i : Byte, T i = bitStep (bitStep (bitStep (bitStep (bitStep (bitStep (bitStep (bitStep (i.setWidth 16))))))))

/-- The properties that R111 lists of the table: three entries, all entries distinct, zero only at 0, and linear. -/
def Obligations.TableIsLinearAndInjective : Prop :=
  T 0x00#8 = 0x0000#16 ∧ T 0x80#8 = 0xA001#16 ∧ T 0xFF#8 = 0x4040#16 ∧
  (∀ i j : Byte, T i = T j → i = j) ∧ (∀ i : Byte, T i = 0#16 ↔ i = 0#8) ∧
  ∀ i j : Byte, T (i ^^^ j) = T i ^^^ T j

/-- R113: CRC_STEP, its corner cases and its example. -/
def Obligations.CrcStepFormulaAndCorners : Prop :=
  (∀ (acc : Half) (b : Byte), crcStep acc b = T (acc.extractLsb' 0 8 ^^^ b) ^^^ (acc >>> 8)) ∧
  crcStep 0#16 0#8 = 0#16 ∧
  (∀ (acc : Half) (b : Byte), acc.extractLsb' 0 8 = b → crcStep acc b = (acc.extractLsb' 8 8).setWidth 16) ∧
  (∀ acc : Half, crcStep acc 0#8 = T (acc.extractLsb' 0 8) ^^^ (acc.extractLsb' 8 8).setWidth 16) ∧
  (∀ (acc : Half) (b : Byte),
    (crcStep acc b).extractLsb' 8 8 = (T (acc.extractLsb' 0 8 ^^^ b)).extractLsb' 8 8) ∧
  crcStep 0xFFFF#16 0x31#8 = 0x947E#16

/-- R115: the table step is the bit-serial step, on all 2^24 inputs. -/
def Obligations.TableStepIsBitSerial : Prop :=
  ∀ (acc : Half) (b : Byte), crcStep acc b = bitStep8 (acc ^^^ b.setWidth 16)

/-- R116: CRC_STEP and FOLD are linear. -/
def Obligations.CrcIsLinear : Prop :=
  (∀ (x y : Half) (b c : Byte), crcStep (x ^^^ y) (b ^^^ c) = crcStep x b ^^^ crcStep y c) ∧
  ∀ (x y : Half) (bs cs : List Byte), bs.length = cs.length →
    fold (x ^^^ y) (List.zipWith (· ^^^ ·) bs cs) = fold x bs ^^^ fold y cs

/-- R117: the zero step is a bijection of 16-bit values that maps 0 to 0, and each step is injective in its byte. -/
def Obligations.ZeroStepIsBijective : Prop :=
  (∀ x y : Half, crcStep x 0#8 = crcStep y 0#8 → x = y) ∧ (∀ z : Half, ∃ x : Half, crcStep x 0#8 = z) ∧
  crcStep 0#16 0#8 = 0#16 ∧
  ∀ (acc : Half) (b c : Byte), crcStep acc b = crcStep acc c → b = c

/-- R118's formula: the CRC of one byte exposes each table entry. -/
def Obligations.OneByteCrcExposesTheTable : Prop :=
  (∀ b : Byte, crc16 [b] = T (0xFF#8 ^^^ b) ^^^ 0x00FF#16) ∧
  ∀ i : Byte, T i = crc16 [i ^^^ 0xFF#8] ^^^ 0x00FF#16

/-- R119: appending the CRC's two bytes, low byte first, gives residue 0, for every sequence; the other order gives
0x2121 for "123456789". -/
def Obligations.AppendedCrcGivesZero : Prop :=
  (∀ d : List Byte, crc16 (d ++ [(crc16 d).extractLsb' 0 8, (crc16 d).extractLsb' 8 8]) = 0#16) ∧
  crc16 ([0x31, 0x32, 0x33, 0x34, 0x35, 0x36, 0x37, 0x38, 0x39] ++ [0x4B, 0x37]) = 0x2121#16

/-- R120: no buffer of zeros, of any length from 1 on, has CRC 0; from the initial value 0 every one would. -/
def Obligations.AllZeroBuffersAreDetected : Prop :=
  (∀ n : Nat, 1 ≤ n → crc16 (List.replicate n 0#8) ≠ 0#16) ∧
  (∀ n : Nat, fold 0#16 (List.replicate n 0#8) = 0#16) ∧
  crc16 (List.replicate 2 0#8) = 0xB001#16 ∧ crc16 (List.replicate 16 0#8) = 0xF0BE#16 ∧
  crc16 (List.replicate 256 0#8) = 0x64BF#16

/-- R122: two sequences of equal length that differ in exactly one byte have different CRCs. -/
def Obligations.OneByteChangeIsDetected : Prop :=
  ∀ (pre post : List Byte) (b c : Byte), b ≠ c → crc16 (pre ++ b :: post) ≠ crc16 (pre ++ c :: post)

/-- R114 and the vectors of 95_test_vectors.md: the empty sequence, the check value of "123456789" and others. -/
def Obligations.CrcVectorsOfTheSpec : Prop :=
  crc16 [] = 0xFFFF#16 ∧
  crc16 [0x31, 0x32, 0x33, 0x34, 0x35, 0x36, 0x37, 0x38, 0x39] = 0x4B37#16 ∧
  crc16 [0x01, 0x02, 0x03, 0x04] = 0x2BA1#16 ∧ crc16 [0x34, 0x12] = 0x7D97#16 ∧
  crc16 [0x12, 0x34] = 0xC70C#16 ∧ crc16 [0x00, 0x00] = 0xB001#16 ∧ crc16 [0xDE, 0xAD, 0xBE, 0xEF] = 0xC19B#16

/-! ## Whole computations -/

/-- R145, R53, R142: a computation accepted with LEN = n, whose reads are admitted, left to itself: after k ≤ n turns of
the engine it is in RUN with k bytes consumed, read at BASE, BASE + 1, … in order, each once; after n + 1 turns it is
DONE, and ACC is crc16 of the n buffer bytes from BASE on. That every turn is the engine's when no event is pending is the
model's schedule (log entry 10); the record of reads is the model's own (log entry 8). -/
def Obligations.ComputationYieldsTheCrcOfTheBuffer : Prop :=
  ∀ (s : State) (data : Word), data.getLsbD 0 = true → s.busy = false → s.inbox = [] →
    (s.len = 0#16 ∨ s.base.toNat + s.len.toNat ≤ 2 ^ s.plat.addrW) →
    (∀ a, s.base.toNat ≤ a → a < s.base.toNat + s.len.toNat → admits s.plat a = true) →
    ∃ t, exec (.wrCtrl data) s = .next t ∧
      (∀ k, k ≤ s.len.toNat → ∃ w, runSteps k t = .next w ∧ w.busy = true ∧ w.done = false ∧ w.cnt.toNat = k ∧
        w.readLog.map Prod.fst = readAddrs s.base.toNat k) ∧
      ∃ u, runSteps (s.len.toNat + 1) t = .next u ∧ u.busy = false ∧ u.done = true ∧
        u.acc = crc16 (Memory.bytes s.mem s.base.toNat s.len.toNat) ∧
        u.readLog.map Prod.snd = Memory.bytes s.mem s.base.toNat s.len.toNat ∧
        u.cnt = s.len ∧ u.lenL = s.len ∧ u.baseL = s.base ∧ u.base = s.base ∧ u.len = s.len ∧ u.mem = s.mem

/-- R52: a computation with LEN_L = 0 issues no buffer read and ends with ACC = 0xFFFF, for every BASE, whether or not
any address is admitted. That the very next step is the engine's when no event is pending is the model's schedule (log
entry 10, DESIGN CHOICE); "no read" is said by the model's own record of reads (log entry 8, DESIGN CHOICE). -/
def Obligations.ZeroLengthReadsNothing : Prop :=
  ∀ (s : State) (data : Word), data.getLsbD 0 = true → s.busy = false → s.inbox = [] → s.len = 0#16 →
    ∃ t u, exec (.wrCtrl data) s = .next t ∧ step t = .next u ∧ u.done = true ∧ u.busy = false ∧
      u.acc = 0xFFFF#16 ∧ u.readLog = [] ∧ exec .rdResult u = .next { u with rdata := 0x0000FFFF#32 }

/-- After R146: two machines in any idle states, left to themselves from a START on, over buffers of the same bytes, at
whatever addresses that are admitted and do not wrap, get the same result. That every turn is the engine's when no event
is pending is the model's schedule (log entry 10, DESIGN CHOICE); for every other schedule see
`Obligations.ResultDependsOnlyOnTheBytesRead`. -/
def Obligations.ComputationsAreIsolated : Prop :=
  ∀ (s₁ s₂ : State), s₁.busy = false → s₂.busy = false → s₁.inbox = [] → s₂.inbox = [] → s₁.len = s₂.len →
    (s₁.len = 0#16 ∨ s₁.base.toNat + s₁.len.toNat ≤ 2 ^ s₁.plat.addrW) →
    (s₂.len = 0#16 ∨ s₂.base.toNat + s₂.len.toNat ≤ 2 ^ s₂.plat.addrW) →
    (∀ a, s₁.base.toNat ≤ a → a < s₁.base.toNat + s₁.len.toNat → admits s₁.plat a = true) →
    (∀ a, s₂.base.toNat ≤ a → a < s₂.base.toNat + s₂.len.toNat → admits s₂.plat a = true) →
    Memory.bytes s₁.mem s₁.base.toNat s₁.len.toNat = Memory.bytes s₂.mem s₂.base.toNat s₂.len.toNat →
    ∃ t₁ t₂ u₁ u₂, exec .engAccept s₁ = .next t₁ ∧ exec .engAccept s₂ = .next t₂ ∧
      runSteps (s₁.len.toNat + 1) t₁ = .next u₁ ∧ runSteps (s₂.len.toNat + 1) t₂ = .next u₂ ∧
      u₁.done = true ∧ u₂.done = true ∧ u₁.acc = u₂.acc

/-- After R188: the host's call `crc16 a, n` returns crc16 of the n bytes at a, as they stand at its START, under the
rule's conditions: BUSY = 0 at the first transaction, no other agent writes BASE, LEN or CTRL, and none stores to the buffer
between the START and the FINISH. Around and between the call's five phases may stand, in any order and number, the engine's
turns, its polls and other hosts' accesses, and other agents' stores (`bystander`), with at least n + 1 of the engine's
turns after the START and before RD_RESULT, as `wait_done` sees to. Model's choices: an idle engine's turn passes (log
entry 5), a store is one byte (log entry 9), the schedule is the list of events (log entry 10). Reset (R241) and accesses
the block refuses (R58) are left out. -/
def Obligations.HostCallReturnsTheCrc : Prop :=
  ∀ (s : State) (a : Word) (n : Half) (afterBase afterLen running finished rest : List Event),
    s.busy = false → a.toNat < 2 ^ s.plat.addrW →
    (n = 0#16 ∨ a.toNat + n.toNat ≤ 2 ^ s.plat.addrW) →
    (∀ x, a.toNat ≤ x → x < a.toNat + n.toNat → admits s.plat x = true) →
    (∀ e, e ∈ afterBase ++ afterLen ++ running ++ finished → bystander s.plat e = true) →
    (∀ x b, Event.store x b ∈ running → x < a.toNat ∨ a.toNat + n.toNat ≤ x) →
    n.toNat + 1 ≤ engineTurns running →
    s.inbox = [.host (accessOf s.plat.regBase 0x20#6 a)] ++ afterBase
      ++ [.host (accessOf s.plat.regBase 0x24#6 (BitVec.ofNat 32 n.toNat))] ++ afterLen
      ++ [.host (accessOf s.plat.regBase 0x28#6 1#32)] ++ running ++ finished
      ++ [.host (accessOf s.plat.regBase 0x10#6 0#32)] ++ rest →
    ∃ t v u, runSteps (afterBase.length + afterLen.length + 3) s = .next t ∧ t.busy = true ∧
      (∀ x, (∀ b, Event.store x b ∉ afterBase ++ afterLen) → Memory.read t.mem x = Memory.read s.mem x) ∧
      runSteps (running.length + finished.length) t = .next v ∧ v.busy = false ∧ v.done = true ∧
      step v = .next u ∧ u.inbox = rest ∧ u.done = true ∧
      u.rdata = BitVec.ofNat 32 (crc16 (Memory.bytes t.mem a.toNat n.toNat)).toNat

/-- After R146: each accepted START (WR_CTRL's or ENG_ACCEPT itself) initialises ACC, CNT, BASE_L and LEN_L anew, so that
nothing of an earlier computation reaches a later one: after such a START in any state, and under any schedule of turns,
host accesses, stores, further STARTs and resets, a state with DONE = 1 has made LEN_L reads, from BASE_L on, and its ACC
is FOLD of 0xFFFF over the bytes they returned; so any two such states whose computations have read the same bytes answer
RD_RESULT with the same value. The bytes read are those of the model's own record (log entry 8, DESIGN CHOICE), which each
ENG_STEP extends by its read. -/
def Obligations.ResultDependsOnlyOnTheBytesRead : Prop :=
  (∀ (i : Instr) (s t : State), acceptsStart i s = true → exec i s = .next t →
    t.acc = 0xFFFF#16 ∧ t.cnt = 0#16 ∧ t.baseL = s.base ∧ t.lenL = s.len) ∧
  (∀ (i : Instr) (k : Nat) (s t u : State), acceptsStart i s = true → exec i s = .next t →
    runSteps k t = .next u → u.done = true →
    u.readLog.map Prod.fst = readAddrs u.baseL.toNat u.lenL.toNat ∧
    u.acc = fold 0xFFFF#16 (u.readLog.map Prod.snd)) ∧
  ∀ (i₁ i₂ : Instr) (k₁ k₂ : Nat) (s₁ s₂ t₁ t₂ u₁ u₂ : State),
    acceptsStart i₁ s₁ = true → exec i₁ s₁ = .next t₁ → runSteps k₁ t₁ = .next u₁ → u₁.done = true →
    acceptsStart i₂ s₂ = true → exec i₂ s₂ = .next t₂ → runSteps k₂ t₂ = .next u₂ → u₂.done = true →
    u₁.readLog.map Prod.snd = u₂.readLog.map Prod.snd →
    ∃ v : Word, exec .rdResult u₁ = .next { u₁ with rdata := v } ∧ exec .rdResult u₂ = .next { u₂ with rdata := v }
end

