-- ==== Sys2Proof/Laws/Crc.lean ====
section
/-! SUPPORT. Small laws of the CRC's functions. -/

namespace Sys2Proof.Machine

@[simp] theorem bitSteps_zero (r : Half) : bitSteps 0 r = r := rfl

theorem bitSteps_succ (k : Nat) (r : Half) : bitSteps (k + 1) r = bitSteps k (bitStep r) := rfl

@[simp] theorem fold_nil (acc : Half) : fold acc [] = acc := rfl

@[simp] theorem fold_cons (acc : Half) (b : Byte) (bs : List Byte) :
    fold acc (b :: bs) = fold (crcStep acc b) bs := rfl

/-- FOLD over a sequence in two parts. -/
theorem fold_append (acc : Half) (xs ys : List Byte) : fold acc (xs ++ ys) = fold (fold acc xs) ys := by
  induction xs generalizing acc with
  | nil => rfl
  | cons x xs ih => exact ih _

/-- The ROM has 256 entries, so every index is valid (R8, R121). -/
theorem rom_length : rom.length = 256 := by decide +kernel

/-- The shift of a step is linear. -/
theorem shiftedTerm_xor (x y : Half) : shiftedTerm (x ^^^ y) = shiftedTerm x ^^^ shiftedTerm y := by
  ext i hi
  simp [shiftedTerm]
  cases decide (i < 8) <;> simp

/-- The table index is linear. -/
theorem tableIndex_xor (x y : Half) (b c : Byte) :
    tableIndex (x ^^^ y) (b ^^^ c) = tableIndex x b ^^^ tableIndex y c := by
  have h : (x ^^^ y).extractLsb' 0 8 = x.extractLsb' 0 8 ^^^ y.extractLsb' 0 8 := by
    apply BitVec.eq_of_getLsbD_eq
    intro i hi
    simp only [BitVec.getLsbD_extractLsb', BitVec.getLsbD_xor, hi, decide_true, Bool.true_and]
  simp only [tableIndex, h]
  ac_rfl

end Sys2Proof.Machine
end

