-- ==== Sys2Proof/Laws/Decode.lean ====
section
/-! SUPPORT. The laws of the decoders and the encoder. -/

namespace Sys2Proof

/-- The decoder reads each operation's own key as that operation. -/
@[simp] theorem decodeKey_key (op : HtOp) : decodeKey op.key = .ok op := by
  cases op <;> decide

/-- One host transaction, by its operation's key. -/
@[simp] theorem decodeHT_key (op : HtOp) (data : Word) : decodeHT op.key data = .ok (op.withData data) := by
  simp [decodeHT]

/-- A key that decodes is the key of what it decodes to. -/
theorem key_of_decodeKey {key : BitVec 6} {op : HtOp} (h : decodeKey key = .ok op) : key = op.key := by
  revert key op
  suffices h : ∀ n : Fin 64, (match decodeKey (BitVec.ofFin n) with
      | .ok op => decide (BitVec.ofFin n = op.key)
      | .rejected _ => true) = true by
    intro key op hk
    have := h key.toFin
    simp only [BitVec.ofFin_toFin, hk, decide_eq_true_eq] at this
    exact this
  decide

/-- An aligned key decodes. -/
theorem decodeKey_aligned {key : BitVec 6} (h : (keyOffset key).extractLsb' 0 2 = 0#2) :
    ∃ op, decodeKey key = .ok op := by
  unfold decodeKey
  rw [if_neg (by simp [h])]
  split <;> exact ⟨_, rfl⟩

/-- A misaligned key is rejected by name. -/
theorem decodeKey_misaligned {key : BitVec 6} (h : (keyOffset key).extractLsb' 0 2 ≠ 0#2) :
    decodeKey key = .rejected (.misaligned (keyOffset key)) := by
  unfold decodeKey
  rw [if_pos h]

/-- `decodeHT` answers an operation with its data, or a misaligned offset. -/
theorem decodeHT_cases (key : BitVec 6) (data : Word) :
    (∃ op, decodeKey key = .ok op ∧ decodeHT key data = .ok (op.withData data)) ∨
    ((keyOffset key).extractLsb' 0 2 ≠ 0#2 ∧ decodeHT key data = .rejected (.misaligned (keyOffset key))) := by
  by_cases h : (keyOffset key).extractLsb' 0 2 = 0#2
  · obtain ⟨op, hop⟩ := decodeKey_aligned h
    exact .inl ⟨op, hop, by simp [decodeHT, hop]⟩
  · exact .inr ⟨h, by simp [decodeHT, decodeKey_misaligned h]⟩

theorem decodeHT_not_idle (key : BitVec 6) (data : Word) : decodeHT key data ≠ .rejected .engineIdle := by
  obtain ⟨op, -, h⟩ | ⟨-, h⟩ := decodeHT_cases key data <;> rw [h] <;> simp

/-- What an HT key gives is one of the 16 host transactions. -/
theorem withData_isHost (op : HtOp) (data : Word) : (op.withData data).isHost = true := by
  cases op <;> rfl

@[simp] theorem makeKey_write (w : Bool) (off : BitVec 5) : keyWrite (makeKey w off) = w := by
  revert off
  cases w <;> decide

@[simp] theorem makeKey_offset (w : Bool) (off : BitVec 5) : keyOffset (makeKey w off) = off := by
  revert off
  cases w <;> decide

@[simp] theorem makeKey_parts (key : BitVec 6) : makeKey (keyWrite key) (keyOffset key) = key := by
  revert key
  decide

/-- What decodes is well-formed. -/
theorem decode_wellFormed {c : Code} {i : Instr} (h : decode c = .ok i) : i.wellFormed = true := by
  cases c with
  | ht key data =>
    obtain ⟨op, -, hd⟩ | ⟨-, hd⟩ := decodeHT_cases key data
    · simp only [decode, hd, Decoded.ok.injEq] at h
      subst h
      cases op <;> rfl
    · simp [decode, hd] at h
  | ec w =>
    simp only [decode, decodeEC] at h
    split at h <;> simp at h <;> subst h <;> rfl

/-- The encoding of a register transaction's line is the encoding of the operation (R90). -/
theorem asmLine_rd_decodes (r : AsmReg) : ∃ op : HtOp, decode (AsmLine.rd r).code = .ok (op.withData 0#32) := by
  cases r <;> first
    | exact ⟨.rdBase, by decide⟩
    | exact ⟨.rdLen, by decide⟩
    | exact ⟨.rdCtrl, by decide⟩
    | exact ⟨.rdStatus, by decide⟩
    | exact ⟨.rdResult, by decide⟩
    | exact ⟨.rdRsvd14, by decide⟩
    | exact ⟨.rdRsvd18, by decide⟩
    | exact ⟨.rdRsvd1C, by decide⟩

end Sys2Proof
end

