-- ==== Sys2Proof/Laws/Memory.lean ====
section
/-! SUPPORT. The laws of the buffer memory: a store keeps the canonical form, a read after a store to the same address
gives the byte stored, and a store leaves every other address alone. -/

namespace Sys2Proof.Machine

@[simp] theorem Memory.wf_nil : Memory.wf [] = true := rfl

@[simp] theorem Memory.find_nil (a : Nat) : Memory.find [] a = none := rfl

@[simp] theorem Memory.read_nil (a : Nat) : Memory.read [] a = Config.freeByte a := rfl

theorem Memory.wf_tail {c : Host.Cell} {m : Memory} (h : Memory.wf (c :: m) = true) : Memory.wf m = true := by
  cases m with
  | nil => rfl
  | cons d m =>
    simp only [Memory.wf, Bool.and_eq_true] at h
    exact h.2

/-- A store puts no address below the lower of the stored one and the first listed one. -/
theorem Memory.wf_cons_write {c : Host.Cell} {m : Memory} {a : Nat} {b : Byte} (h : Memory.wf (c :: m) = true)
    (hc : c.1 < a) (hw : Memory.wf (Memory.write m a b) = true) : Memory.wf (c :: Memory.write m a b) = true := by
  cases m with
  | nil => simp [Memory.write, Memory.wf, hc]
  | cons d m =>
    have hd : c.1 < d.1 := by
      simp only [Memory.wf, Bool.and_eq_true, decide_eq_true_eq] at h
      exact h.1
    unfold Memory.write at hw ⊢
    split
    · rename_i h1
      simp only [h1, if_true] at hw
      simp [Memory.wf, hc] at hw ⊢
      exact hw
    · rename_i h1
      simp only [h1, if_false] at hw
      split
      · rename_i h2
        simp only [h2, if_true] at hw
        simp only [Memory.wf, hc, decide_true, Bool.true_and]
        rw [h2]
        exact hw
      · rename_i h2
        simp only [h2, if_false] at hw
        simp only [Memory.wf, hd, decide_true, Bool.true_and]
        exact hw

/-- Every store keeps the canonical form. -/
theorem Memory.write_wf {m : Memory} (a : Nat) (b : Byte) (h : Memory.wf m = true) :
    Memory.wf (Memory.write m a b) = true := by
  induction m with
  | nil => rfl
  | cons c m ih =>
    have ih := ih (Memory.wf_tail h)
    unfold Memory.write
    split
    · rename_i h1
      simp only [Memory.wf, h1, decide_true, Bool.true_and]
      exact h
    · split
      · rename_i h2
        cases m with
        | nil => rfl
        | cons d m =>
          simp only [Memory.wf, Bool.and_eq_true, decide_eq_true_eq] at h ⊢
          rw [h2]
          exact h
      · rename_i h1 h2
        exact Memory.wf_cons_write h (by omega) ih

theorem Memory.find_write_same (m : Memory) (a : Nat) (b : Byte) : Memory.find (Memory.write m a b) a = some b := by
  induction m with
  | nil => simp [Memory.write, Memory.find]
  | cons c m ih =>
    unfold Memory.write
    split
    · simp [Memory.find]
    · split
      · simp [Memory.find]
      · rename_i h2
        simp only [Memory.find]
        rw [if_neg (fun h => h2 h.symm)]
        exact ih

theorem Memory.find_write_other (m : Memory) {a x : Nat} (b : Byte) (h : x ≠ a) :
    Memory.find (Memory.write m a b) x = Memory.find m x := by
  induction m with
  | nil => simp [Memory.write, Memory.find, Ne.symm h]
  | cons c m ih =>
    unfold Memory.write
    split
    · simp only [Memory.find]
      rw [if_neg (Ne.symm h)]
    · split
      · rename_i h2
        simp only [Memory.find]
        rw [if_neg (Ne.symm h), if_neg (by rw [← h2]; exact Ne.symm h)]
      · simp only [Memory.find, ih]

/-- A read after a store to the same address gives the byte stored. -/
@[simp] theorem Memory.read_write_same (m : Memory) (a : Nat) (b : Byte) :
    Memory.read (Memory.write m a b) a = b := by
  simp [Memory.read, Memory.find_write_same]

/-- A store leaves every other address alone. -/
theorem Memory.read_write_other (m : Memory) {a x : Nat} (b : Byte) (h : x ≠ a) :
    Memory.read (Memory.write m a b) x = Memory.read m x := by
  simp [Memory.read, Memory.find_write_other m b h]

@[simp] theorem Memory.bytes_zero (m : Memory) (a : Nat) : Memory.bytes m a 0 = [] := rfl

theorem Memory.bytes_succ (m : Memory) (a n : Nat) :
    Memory.bytes m a (n + 1) = Memory.read m a :: Memory.bytes m (a + 1) n := rfl

@[simp] theorem Memory.bytes_length (m : Memory) (a n : Nat) : (Memory.bytes m a n).length = n := by
  induction n generalizing a with
  | zero => rfl
  | succ n ih => simp [Memory.bytes, ih]

/-- The bytes of a buffer, the last one split off. -/
theorem Memory.bytes_append_last (m : Memory) (a n : Nat) :
    Memory.bytes m a (n + 1) = Memory.bytes m a n ++ [Memory.read m (a + n)] := by
  induction n generalizing a with
  | zero => rfl
  | succ n ih =>
    rw [Memory.bytes_succ, ih, Memory.bytes_succ]
    simp [Nat.add_assoc, Nat.add_comm 1 n]

end Sys2Proof.Machine
end

