-- ==== Sys2Proof/Laws/State.lean ====
section
/-! SUPPORT. For every named update of State and every field: what the field is after the update. -/

namespace Sys2Proof.Machine

/-! ### flagsAccepted -/

@[simp] theorem flagsAccepted_plat (s : State) : (flagsAccepted s).plat = s.plat := rfl
@[simp] theorem flagsAccepted_acc (s : State) : (flagsAccepted s).acc = s.acc := rfl
@[simp] theorem flagsAccepted_cnt (s : State) : (flagsAccepted s).cnt = s.cnt := rfl
@[simp] theorem flagsAccepted_baseL (s : State) : (flagsAccepted s).baseL = s.baseL := rfl
@[simp] theorem flagsAccepted_lenL (s : State) : (flagsAccepted s).lenL = s.lenL := rfl
@[simp] theorem flagsAccepted_busy (s : State) : (flagsAccepted s).busy = true := rfl
@[simp] theorem flagsAccepted_done (s : State) : (flagsAccepted s).done = false := rfl
@[simp] theorem flagsAccepted_base (s : State) : (flagsAccepted s).base = s.base := rfl
@[simp] theorem flagsAccepted_len (s : State) : (flagsAccepted s).len = s.len := rfl
@[simp] theorem flagsAccepted_mem (s : State) : (flagsAccepted s).mem = s.mem := rfl
@[simp] theorem flagsAccepted_rdata (s : State) : (flagsAccepted s).rdata = s.rdata := rfl
@[simp] theorem flagsAccepted_inbox (s : State) : (flagsAccepted s).inbox = s.inbox := rfl
@[simp] theorem flagsAccepted_draws (s : State) : (flagsAccepted s).draws = s.draws := rfl
@[simp] theorem flagsAccepted_readLog (s : State) : (flagsAccepted s).readLog = s.readLog := rfl

/-! ### flagsFinished -/

@[simp] theorem flagsFinished_plat (s : State) : (flagsFinished s).plat = s.plat := rfl
@[simp] theorem flagsFinished_acc (s : State) : (flagsFinished s).acc = s.acc := rfl
@[simp] theorem flagsFinished_cnt (s : State) : (flagsFinished s).cnt = s.cnt := rfl
@[simp] theorem flagsFinished_baseL (s : State) : (flagsFinished s).baseL = s.baseL := rfl
@[simp] theorem flagsFinished_lenL (s : State) : (flagsFinished s).lenL = s.lenL := rfl
@[simp] theorem flagsFinished_busy (s : State) : (flagsFinished s).busy = false := rfl
@[simp] theorem flagsFinished_done (s : State) : (flagsFinished s).done = true := rfl
@[simp] theorem flagsFinished_base (s : State) : (flagsFinished s).base = s.base := rfl
@[simp] theorem flagsFinished_len (s : State) : (flagsFinished s).len = s.len := rfl
@[simp] theorem flagsFinished_mem (s : State) : (flagsFinished s).mem = s.mem := rfl
@[simp] theorem flagsFinished_rdata (s : State) : (flagsFinished s).rdata = s.rdata := rfl
@[simp] theorem flagsFinished_inbox (s : State) : (flagsFinished s).inbox = s.inbox := rfl
@[simp] theorem flagsFinished_draws (s : State) : (flagsFinished s).draws = s.draws := rfl
@[simp] theorem flagsFinished_readLog (s : State) : (flagsFinished s).readLog = s.readLog := rfl

/-! ### flagsReset -/

@[simp] theorem flagsReset_plat (s : State) : (flagsReset s).plat = s.plat := rfl
@[simp] theorem flagsReset_acc (s : State) : (flagsReset s).acc = s.acc := rfl
@[simp] theorem flagsReset_cnt (s : State) : (flagsReset s).cnt = s.cnt := rfl
@[simp] theorem flagsReset_baseL (s : State) : (flagsReset s).baseL = s.baseL := rfl
@[simp] theorem flagsReset_lenL (s : State) : (flagsReset s).lenL = s.lenL := rfl
@[simp] theorem flagsReset_busy (s : State) : (flagsReset s).busy = false := rfl
@[simp] theorem flagsReset_done (s : State) : (flagsReset s).done = false := rfl
@[simp] theorem flagsReset_base (s : State) : (flagsReset s).base = s.base := rfl
@[simp] theorem flagsReset_len (s : State) : (flagsReset s).len = s.len := rfl
@[simp] theorem flagsReset_mem (s : State) : (flagsReset s).mem = s.mem := rfl
@[simp] theorem flagsReset_rdata (s : State) : (flagsReset s).rdata = s.rdata := rfl
@[simp] theorem flagsReset_inbox (s : State) : (flagsReset s).inbox = s.inbox := rfl
@[simp] theorem flagsReset_draws (s : State) : (flagsReset s).draws = s.draws := rfl
@[simp] theorem flagsReset_readLog (s : State) : (flagsReset s).readLog = s.readLog := rfl

/-! ### storeByte -/

@[simp] theorem storeByte_plat (a : Nat) (b : Byte) (s : State) : (storeByte a b s).plat = s.plat := rfl
@[simp] theorem storeByte_acc (a : Nat) (b : Byte) (s : State) : (storeByte a b s).acc = s.acc := rfl
@[simp] theorem storeByte_cnt (a : Nat) (b : Byte) (s : State) : (storeByte a b s).cnt = s.cnt := rfl
@[simp] theorem storeByte_baseL (a : Nat) (b : Byte) (s : State) : (storeByte a b s).baseL = s.baseL := rfl
@[simp] theorem storeByte_lenL (a : Nat) (b : Byte) (s : State) : (storeByte a b s).lenL = s.lenL := rfl
@[simp] theorem storeByte_busy (a : Nat) (b : Byte) (s : State) : (storeByte a b s).busy = s.busy := rfl
@[simp] theorem storeByte_done (a : Nat) (b : Byte) (s : State) : (storeByte a b s).done = s.done := rfl
@[simp] theorem storeByte_base (a : Nat) (b : Byte) (s : State) : (storeByte a b s).base = s.base := rfl
@[simp] theorem storeByte_len (a : Nat) (b : Byte) (s : State) : (storeByte a b s).len = s.len := rfl
@[simp] theorem storeByte_mem (a : Nat) (b : Byte) (s : State) : (storeByte a b s).mem = Memory.write s.mem a b := rfl
@[simp] theorem storeByte_rdata (a : Nat) (b : Byte) (s : State) : (storeByte a b s).rdata = s.rdata := rfl
@[simp] theorem storeByte_inbox (a : Nat) (b : Byte) (s : State) : (storeByte a b s).inbox = s.inbox := rfl
@[simp] theorem storeByte_draws (a : Nat) (b : Byte) (s : State) : (storeByte a b s).draws = s.draws := rfl
@[simp] theorem storeByte_readLog (a : Nat) (b : Byte) (s : State) : (storeByte a b s).readLog = s.readLog := rfl

/-! ### reply -/

@[simp] theorem reply_plat (v : Word) (s : State) : (reply v s).plat = s.plat := rfl
@[simp] theorem reply_acc (v : Word) (s : State) : (reply v s).acc = s.acc := rfl
@[simp] theorem reply_cnt (v : Word) (s : State) : (reply v s).cnt = s.cnt := rfl
@[simp] theorem reply_baseL (v : Word) (s : State) : (reply v s).baseL = s.baseL := rfl
@[simp] theorem reply_lenL (v : Word) (s : State) : (reply v s).lenL = s.lenL := rfl
@[simp] theorem reply_busy (v : Word) (s : State) : (reply v s).busy = s.busy := rfl
@[simp] theorem reply_done (v : Word) (s : State) : (reply v s).done = s.done := rfl
@[simp] theorem reply_base (v : Word) (s : State) : (reply v s).base = s.base := rfl
@[simp] theorem reply_len (v : Word) (s : State) : (reply v s).len = s.len := rfl
@[simp] theorem reply_mem (v : Word) (s : State) : (reply v s).mem = s.mem := rfl
@[simp] theorem reply_rdata (v : Word) (s : State) : (reply v s).rdata = v := rfl
@[simp] theorem reply_inbox (v : Word) (s : State) : (reply v s).inbox = s.inbox := rfl
@[simp] theorem reply_draws (v : Word) (s : State) : (reply v s).draws = s.draws := rfl
@[simp] theorem reply_readLog (v : Word) (s : State) : (reply v s).readLog = s.readLog := rfl

/-! ### drawn -/

@[simp] theorem drawn_plat (s : State) : (drawn s).plat = s.plat := rfl
@[simp] theorem drawn_acc (s : State) : (drawn s).acc = s.acc := rfl
@[simp] theorem drawn_cnt (s : State) : (drawn s).cnt = s.cnt := rfl
@[simp] theorem drawn_baseL (s : State) : (drawn s).baseL = s.baseL := rfl
@[simp] theorem drawn_lenL (s : State) : (drawn s).lenL = s.lenL := rfl
@[simp] theorem drawn_busy (s : State) : (drawn s).busy = s.busy := rfl
@[simp] theorem drawn_done (s : State) : (drawn s).done = s.done := rfl
@[simp] theorem drawn_base (s : State) : (drawn s).base = s.base := rfl
@[simp] theorem drawn_len (s : State) : (drawn s).len = s.len := rfl
@[simp] theorem drawn_mem (s : State) : (drawn s).mem = s.mem := rfl
@[simp] theorem drawn_rdata (s : State) : (drawn s).rdata = s.rdata := rfl
@[simp] theorem drawn_inbox (s : State) : (drawn s).inbox = s.inbox := rfl
@[simp] theorem drawn_draws (s : State) : (drawn s).draws = s.draws + 1 := rfl
@[simp] theorem drawn_readLog (s : State) : (drawn s).readLog = s.readLog := rfl

/-! ### setBase -/

@[simp] theorem setBase_plat (v : Word) (s : State) : (setBase v s).plat = s.plat := rfl
@[simp] theorem setBase_acc (v : Word) (s : State) : (setBase v s).acc = s.acc := rfl
@[simp] theorem setBase_cnt (v : Word) (s : State) : (setBase v s).cnt = s.cnt := rfl
@[simp] theorem setBase_baseL (v : Word) (s : State) : (setBase v s).baseL = s.baseL := rfl
@[simp] theorem setBase_lenL (v : Word) (s : State) : (setBase v s).lenL = s.lenL := rfl
@[simp] theorem setBase_busy (v : Word) (s : State) : (setBase v s).busy = s.busy := rfl
@[simp] theorem setBase_done (v : Word) (s : State) : (setBase v s).done = s.done := rfl
@[simp] theorem setBase_base (v : Word) (s : State) : (setBase v s).base = v := rfl
@[simp] theorem setBase_len (v : Word) (s : State) : (setBase v s).len = s.len := rfl
@[simp] theorem setBase_mem (v : Word) (s : State) : (setBase v s).mem = s.mem := rfl
@[simp] theorem setBase_rdata (v : Word) (s : State) : (setBase v s).rdata = s.rdata := rfl
@[simp] theorem setBase_inbox (v : Word) (s : State) : (setBase v s).inbox = s.inbox := rfl
@[simp] theorem setBase_draws (v : Word) (s : State) : (setBase v s).draws = s.draws := rfl
@[simp] theorem setBase_readLog (v : Word) (s : State) : (setBase v s).readLog = s.readLog := rfl

/-! ### setLen -/

@[simp] theorem setLen_plat (v : Half) (s : State) : (setLen v s).plat = s.plat := rfl
@[simp] theorem setLen_acc (v : Half) (s : State) : (setLen v s).acc = s.acc := rfl
@[simp] theorem setLen_cnt (v : Half) (s : State) : (setLen v s).cnt = s.cnt := rfl
@[simp] theorem setLen_baseL (v : Half) (s : State) : (setLen v s).baseL = s.baseL := rfl
@[simp] theorem setLen_lenL (v : Half) (s : State) : (setLen v s).lenL = s.lenL := rfl
@[simp] theorem setLen_busy (v : Half) (s : State) : (setLen v s).busy = s.busy := rfl
@[simp] theorem setLen_done (v : Half) (s : State) : (setLen v s).done = s.done := rfl
@[simp] theorem setLen_base (v : Half) (s : State) : (setLen v s).base = s.base := rfl
@[simp] theorem setLen_len (v : Half) (s : State) : (setLen v s).len = v := rfl
@[simp] theorem setLen_mem (v : Half) (s : State) : (setLen v s).mem = s.mem := rfl
@[simp] theorem setLen_rdata (v : Half) (s : State) : (setLen v s).rdata = s.rdata := rfl
@[simp] theorem setLen_inbox (v : Half) (s : State) : (setLen v s).inbox = s.inbox := rfl
@[simp] theorem setLen_draws (v : Half) (s : State) : (setLen v s).draws = s.draws := rfl
@[simp] theorem setLen_readLog (v : Half) (s : State) : (setLen v s).readLog = s.readLog := rfl

/-! ### latch -/

@[simp] theorem latch_plat (b : Word) (n : Half) (s : State) : (latch b n s).plat = s.plat := rfl
@[simp] theorem latch_acc (b : Word) (n : Half) (s : State) : (latch b n s).acc = Config.init := rfl
@[simp] theorem latch_cnt (b : Word) (n : Half) (s : State) : (latch b n s).cnt = 0#16 := rfl
@[simp] theorem latch_baseL (b : Word) (n : Half) (s : State) : (latch b n s).baseL = b := rfl
@[simp] theorem latch_lenL (b : Word) (n : Half) (s : State) : (latch b n s).lenL = n := rfl
@[simp] theorem latch_busy (b : Word) (n : Half) (s : State) : (latch b n s).busy = true := rfl
@[simp] theorem latch_done (b : Word) (n : Half) (s : State) : (latch b n s).done = false := rfl
@[simp] theorem latch_base (b : Word) (n : Half) (s : State) : (latch b n s).base = s.base := rfl
@[simp] theorem latch_len (b : Word) (n : Half) (s : State) : (latch b n s).len = s.len := rfl
@[simp] theorem latch_mem (b : Word) (n : Half) (s : State) : (latch b n s).mem = s.mem := rfl
@[simp] theorem latch_rdata (b : Word) (n : Half) (s : State) : (latch b n s).rdata = s.rdata := rfl
@[simp] theorem latch_inbox (b : Word) (n : Half) (s : State) : (latch b n s).inbox = s.inbox := rfl
@[simp] theorem latch_draws (b : Word) (n : Half) (s : State) : (latch b n s).draws = s.draws := rfl
@[simp] theorem latch_readLog (b : Word) (n : Half) (s : State) : (latch b n s).readLog = [] := rfl

/-! ### consume -/

@[simp] theorem consume_plat (b : Byte) (s : State) : (consume b s).plat = s.plat := rfl
@[simp] theorem consume_acc (b : Byte) (s : State) : (consume b s).acc = crcStep s.acc b := rfl
@[simp] theorem consume_cnt (b : Byte) (s : State) : (consume b s).cnt = s.cnt + 1#16 := rfl
@[simp] theorem consume_baseL (b : Byte) (s : State) : (consume b s).baseL = s.baseL := rfl
@[simp] theorem consume_lenL (b : Byte) (s : State) : (consume b s).lenL = s.lenL := rfl
@[simp] theorem consume_busy (b : Byte) (s : State) : (consume b s).busy = s.busy := rfl
@[simp] theorem consume_done (b : Byte) (s : State) : (consume b s).done = s.done := rfl
@[simp] theorem consume_base (b : Byte) (s : State) : (consume b s).base = s.base := rfl
@[simp] theorem consume_len (b : Byte) (s : State) : (consume b s).len = s.len := rfl
@[simp] theorem consume_mem (b : Byte) (s : State) : (consume b s).mem = s.mem := rfl
@[simp] theorem consume_rdata (b : Byte) (s : State) : (consume b s).rdata = s.rdata := rfl
@[simp] theorem consume_inbox (b : Byte) (s : State) : (consume b s).inbox = s.inbox := rfl
@[simp] theorem consume_draws (b : Byte) (s : State) : (consume b s).draws = s.draws := rfl
@[simp] theorem consume_readLog (b : Byte) (s : State) : (consume b s).readLog = s.readLog ++ [(bufferAddr s, b)] := rfl

/-! ### resetBlock -/

@[simp] theorem resetBlock_plat (s : State) : (resetBlock s).plat = s.plat := rfl
@[simp] theorem resetBlock_acc (s : State) : (resetBlock s).acc = draw16 s.draws := rfl
@[simp] theorem resetBlock_cnt (s : State) : (resetBlock s).cnt = draw16 (s.draws + 1) := rfl
@[simp] theorem resetBlock_baseL (s : State) : (resetBlock s).baseL = addrField s.plat (Config.freeDraw (s.draws + 2)) := rfl
@[simp] theorem resetBlock_lenL (s : State) : (resetBlock s).lenL = draw16 (s.draws + 3) := rfl
@[simp] theorem resetBlock_busy (s : State) : (resetBlock s).busy = false := rfl
@[simp] theorem resetBlock_done (s : State) : (resetBlock s).done = false := rfl
@[simp] theorem resetBlock_base (s : State) : (resetBlock s).base = 0#32 := rfl
@[simp] theorem resetBlock_len (s : State) : (resetBlock s).len = 0#16 := rfl
@[simp] theorem resetBlock_mem (s : State) : (resetBlock s).mem = s.mem := rfl
@[simp] theorem resetBlock_rdata (s : State) : (resetBlock s).rdata = s.rdata := rfl
@[simp] theorem resetBlock_inbox (s : State) : (resetBlock s).inbox = s.inbox := rfl
@[simp] theorem resetBlock_draws (s : State) : (resetBlock s).draws = s.draws + 4 := rfl
@[simp] theorem resetBlock_readLog (s : State) : (resetBlock s).readLog = [] := rfl

/-! ### popEvent -/

@[simp] theorem popEvent_plat (s : State) : (popEvent s).plat = s.plat := rfl
@[simp] theorem popEvent_acc (s : State) : (popEvent s).acc = s.acc := rfl
@[simp] theorem popEvent_cnt (s : State) : (popEvent s).cnt = s.cnt := rfl
@[simp] theorem popEvent_baseL (s : State) : (popEvent s).baseL = s.baseL := rfl
@[simp] theorem popEvent_lenL (s : State) : (popEvent s).lenL = s.lenL := rfl
@[simp] theorem popEvent_busy (s : State) : (popEvent s).busy = s.busy := rfl
@[simp] theorem popEvent_done (s : State) : (popEvent s).done = s.done := rfl
@[simp] theorem popEvent_base (s : State) : (popEvent s).base = s.base := rfl
@[simp] theorem popEvent_len (s : State) : (popEvent s).len = s.len := rfl
@[simp] theorem popEvent_mem (s : State) : (popEvent s).mem = s.mem := rfl
@[simp] theorem popEvent_rdata (s : State) : (popEvent s).rdata = s.rdata := rfl
@[simp] theorem popEvent_inbox (s : State) : (popEvent s).inbox = s.inbox.tail := rfl
@[simp] theorem popEvent_draws (s : State) : (popEvent s).draws = s.draws := rfl
@[simp] theorem popEvent_readLog (s : State) : (popEvent s).readLog = s.readLog := rfl

end Sys2Proof.Machine
end

