-- ==== Sys2Proof/Laws/Ops.lean ====
section
/-! SUPPORT. For each shared operation, once, everything it can do. -/

namespace Sys2Proof.Machine

/-- BASE's reserved bits read as zero, whatever is written. -/
theorem addrField_toNat (p : Platform) (data : Word) : (addrField p data).toNat = data.toNat % 2 ^ p.addrW := by
  have h : data.toNat % 2 ^ p.addrW ≤ data.toNat := Nat.mod_le _ _
  simp only [addrField, BitVec.toNat_ofNat]
  exact Nat.mod_eq_of_lt (by omega)

theorem addrField_lt (p : Platform) (data : Word) : (addrField p data).toNat < 2 ^ p.addrW := by
  rw [addrField_toNat]
  exact Nat.mod_lt _ (Nat.two_pow_pos _)

/-- With ADDR_W = 32 no bit of DATA is discarded. -/
theorem addrField_full {p : Platform} (data : Word) (h : p.addrW = 32) : addrField p data = data := by
  apply BitVec.eq_of_toNat_eq
  rw [addrField_toNat, h]
  exact Nat.mod_eq_of_lt data.isLt

/-- ENG_ACCEPT after its `require`: refused for a buffer that wraps, else latched. -/
theorem accept_cases (s : State) :
    (bufferWraps s = true ∧ accept s = .refused .bufferWraps) ∨
    (bufferWraps s = false ∧ accept s = .next (latch s.base s.len s)) := by
  cases h : bufferWraps s <;> simp [accept, h]

theorem accept_next {s t : State} (h : accept s = .next t) : bufferWraps s = false ∧ t = latch s.base s.len s := by
  obtain ⟨-, he⟩ | ⟨hb, he⟩ := accept_cases s <;> rw [he] at h
  · simp at h
  · exact ⟨hb, by simpa using h.symm⟩

/-- When a buffer does not wrap (R55). -/
theorem bufferWraps_false_iff (s : State) :
    bufferWraps s = false ↔ s.len = 0#16 ∨ s.base.toNat + s.len.toNat ≤ 2 ^ s.plat.addrW := by
  simp only [bufferWraps, Bool.and_eq_false_iff, decide_eq_false_iff_not, Decidable.not_not, Nat.not_lt, ne_eq]

/-- The engine's read gives the memory's byte, where the platform admits it. -/
theorem memRead_admitted {s : State} {a : Nat} (h : admits s.plat a = true) :
    memRead s a = some (Memory.read s.mem a) := by
  simp [memRead, h]

theorem memRead_not_admitted {s : State} {a : Nat} (h : admits s.plat a = false) : memRead s a = none := by
  simp [memRead, h]

/-- An admitted address is one of the buffer space. -/
theorem admits_inSpace {p : Platform} {a : Nat} (h : admits p a = true) : a < 2 ^ p.addrW := by
  simp only [admits, inSpace, Bool.and_eq_true, decide_eq_true_eq] at h
  exact h.1

/-- EQ of R83. -/
theorem allConsumed_iff (s : State) : allConsumed s = true ↔ s.cnt = s.lenL := by simp [allConsumed]

/-- The status word has BUSY in bit 0, DONE in bit 1 and zeros above (R32). -/
theorem statusWord_eq (s : State) :
    statusWord s = (if s.done then 2#32 else 0#32) + (if s.busy then 1#32 else 0#32) := by
  cases hb : s.busy <;> cases hd : s.done <;> simp only [statusWord, hb, hd] <;> decide

/-- EC as BUSY and EQ give it. -/
theorem ecWord_idle {s : State} (h : s.busy = false) : decodeEC (ecWord s) = .rejected .engineIdle := by
  cases hc : allConsumed s <;> simp [ecWord, h, hc] <;> decide

theorem ecWord_step {s : State} (h : s.busy = true) (hc : s.cnt ≠ s.lenL) : decodeEC (ecWord s) = .ok .engStep := by
  have : allConsumed s = false := by simpa [allConsumed] using hc
  simp [ecWord, h, this]
  decide

theorem ecWord_finish {s : State} (h : s.busy = true) (hc : s.cnt = s.lenL) :
    decodeEC (ecWord s) = .ok .engFinish := by
  have : allConsumed s = true := by simpa [allConsumed] using hc
  simp [ecWord, h, this]
  decide

end Sys2Proof.Machine
end

