-- ==== Sys2Proof/Laws/Exec.lean ====
section
/-! SUPPORT. Inversion: what each operation can do, once. -/

namespace Sys2Proof.Machine

/-- Everything a next state of `exec` can be: a read's answer, a register write, a START accepted, one byte consumed,
the end of a computation, or no change. -/
inductive Effect (s : State) : State → Prop where
  | unchanged : Effect s s
  | answered (v : Word) : Effect s (reply v s)
  | answeredFree : s.done = false → Effect s (drawn (reply (unspecifiedRead s) s))
  | baseWritten (data : Word) : Effect s (setBase (addrField s.plat data) s)
  | lenWritten (v : Half) : Effect s (setLen v s)
  | accepted : s.busy = false → bufferWraps s = false → Effect s (latch s.base s.len s)
  | consumed : s.busy = true → s.cnt ≠ s.lenL → admits s.plat (bufferAddr s) = true →
      Effect s (consume (Memory.read s.mem (bufferAddr s)) s)
  | ended : s.busy = true → s.cnt = s.lenL → Effect s (flagsFinished s)

theorem execWrCtrl_next {data : Word} {s t : State} (h : execWrCtrl data s = .next t) :
    (startBit data = true ∧ s.busy = false ∧ bufferWraps s = false ∧ t = latch s.base s.len s) ∨
    ((startBit data = false ∨ s.busy = true) ∧ t = s) := by
  unfold execWrCtrl at h
  split at h
  · rename_i hc
    obtain ⟨hw, ht⟩ := accept_next h
    simp only [Bool.and_eq_true, Bool.not_eq_true'] at hc
    exact .inl ⟨hc.1, hc.2, hw, ht⟩
  · rename_i hc
    refine .inr ⟨?_, by simpa using h.symm⟩
    cases hs : startBit data <;> cases hb : s.busy <;> simp [hs, hb] at hc ⊢

theorem execEngAccept_next {s t : State} (h : execEngAccept s = .next t) :
    s.busy = false ∧ bufferWraps s = false ∧ t = latch s.base s.len s := by
  unfold execEngAccept at h
  split at h
  · simp at h
  · rename_i hb
    obtain ⟨hw, ht⟩ := accept_next h
    exact ⟨by simpa using hb, hw, ht⟩

theorem execEngStep_next {s t : State} (h : execEngStep s = .next t) :
    s.busy = true ∧ s.cnt ≠ s.lenL ∧ admits s.plat (bufferAddr s) = true ∧
      t = consume (Memory.read s.mem (bufferAddr s)) s := by
  unfold execEngStep at h
  split at h
  · rename_i hc
    simp only [Bool.and_eq_true, Bool.not_eq_true', allConsumed, beq_eq_false_iff_ne] at hc
    cases ha : admits s.plat (bufferAddr s)
    · simp [memRead, ha] at h
    · rw [memRead_admitted ha] at h
      exact ⟨hc.1, hc.2, rfl, by simpa using h.symm⟩
  · simp at h

theorem execEngFinish_next {s t : State} (h : execEngFinish s = .next t) :
    s.busy = true ∧ s.cnt = s.lenL ∧ t = flagsFinished s := by
  unfold execEngFinish at h
  split at h
  · rename_i hc
    simp only [Bool.and_eq_true, allConsumed, beq_iff_eq] at hc
    exact ⟨hc.1, hc.2, by simpa using h.symm⟩
  · simp at h

/-- Every next state of an operation is one of the effects above. -/
theorem exec_effect {i : Instr} {s t : State} (h : exec i s = .next t) : Effect s t := by
  cases i with
  | rdBase => cases h; exact .answered _
  | rdLen => cases h; exact .answered _
  | rdCtrl => cases h; exact .answered _
  | rdStatus => cases h; exact .answered _
  | rdResult =>
    simp only [exec, execRdResult] at h
    split at h
    · cases h; exact .answered _
    · rename_i hd
      cases h; exact .answeredFree (by simpa using hd)
  | rdRsvd14 => cases h; exact .answered _
  | rdRsvd18 => cases h; exact .answered _
  | rdRsvd1C => cases h; exact .answered _
  | wrBase data => cases h; exact .baseWritten data
  | wrLen data => cases h; exact .lenWritten _
  | wrCtrl data =>
    obtain ⟨-, hb, hw, rfl⟩ | ⟨-, rfl⟩ := execWrCtrl_next h
    · exact .accepted hb hw
    · exact .unchanged
  | wrStatus _ => cases h; exact .unchanged
  | wrResult _ => cases h; exact .unchanged
  | wrRsvd14 _ => cases h; exact .unchanged
  | wrRsvd18 _ => cases h; exact .unchanged
  | wrRsvd1C _ => cases h; exact .unchanged
  | engAccept =>
    obtain ⟨hb, hw, rfl⟩ := execEngAccept_next h
    exact .accepted hb hw
  | engStep =>
    obtain ⟨hb, hc, ha, rfl⟩ := execEngStep_next h
    exact .consumed hb hc ha
  | engFinish =>
    obtain ⟨hb, hc, rfl⟩ := execEngFinish_next h
    exact .ended hb hc

end Sys2Proof.Machine
end

