-- ==== Sys2Proof/Laws/PerInstr.lean ====
section
/-! SUPPORT. Per operation: its encoding is the number spec/opcode_table.json gives its row (`match`), under the row's
mask, in the row's format. -/

-- The theorems of this file are elaborated one after another: fewer threads at once.
set_option Elab.async false

namespace Sys2Proof.Laws.TableRow

/-- `match` of the operation's row of spec/opcode_table.json, copied from it. -/
def rowMatch : Instr → Nat
  | .rdBase => 0x00
  | .rdLen => 0x04
  | .rdCtrl => 0x08
  | .rdStatus => 0x0C
  | .rdResult => 0x10
  | .rdRsvd14 => 0x14
  | .rdRsvd18 => 0x18
  | .rdRsvd1C => 0x1C
  | .wrBase _ => 0x20
  | .wrLen _ => 0x24
  | .wrCtrl _ => 0x28
  | .wrStatus _ => 0x2C
  | .wrResult _ => 0x30
  | .wrRsvd14 _ => 0x34
  | .wrRsvd18 _ => 0x38
  | .wrRsvd1C _ => 0x3C
  | .engAccept => 0x28
  | .engStep => 0b10
  | .engFinish => 0b11

/-- The code's key or condition as a number. -/
def codeNumber : Code → Nat
  | .ht key _ => key.toNat
  | .ec w => w.toNat

/-- The code is of format EC. -/
def codeIsEC : Code → Bool
  | .ht _ _ => false
  | .ec _ => true

/-- The operation is encoded as its table row says: the row's `match`, and format EC for the two engine rows alone. -/
def Statement (i : Instr) : Prop :=
  codeNumber (encode i) = rowMatch i ∧ (codeIsEC (encode i) = true ↔ i = .engStep ∨ i = .engFinish)

theorem rdBase : Statement .rdBase := by simp [Statement, encode, codeNumber, codeIsEC, rowMatch, HtOp.key]
theorem rdLen : Statement .rdLen := by simp [Statement, encode, codeNumber, codeIsEC, rowMatch, HtOp.key]
theorem rdCtrl : Statement .rdCtrl := by simp [Statement, encode, codeNumber, codeIsEC, rowMatch, HtOp.key]
theorem rdStatus : Statement .rdStatus := by simp [Statement, encode, codeNumber, codeIsEC, rowMatch, HtOp.key]
theorem rdResult : Statement .rdResult := by simp [Statement, encode, codeNumber, codeIsEC, rowMatch, HtOp.key]
theorem rdRsvd14 : Statement .rdRsvd14 := by simp [Statement, encode, codeNumber, codeIsEC, rowMatch, HtOp.key]
theorem rdRsvd18 : Statement .rdRsvd18 := by simp [Statement, encode, codeNumber, codeIsEC, rowMatch, HtOp.key]
theorem rdRsvd1C : Statement .rdRsvd1C := by simp [Statement, encode, codeNumber, codeIsEC, rowMatch, HtOp.key]
theorem engAccept : Statement .engAccept := by simp [Statement, encode, codeNumber, codeIsEC, rowMatch, HtOp.key]
theorem engStep : Statement .engStep := by simp [Statement, encode, codeNumber, codeIsEC, rowMatch]
theorem engFinish : Statement .engFinish := by simp [Statement, encode, codeNumber, codeIsEC, rowMatch]
theorem wrBase (data : Word) : Statement (.wrBase data) := by
  simp [Statement, encode, codeNumber, codeIsEC, rowMatch, HtOp.key]
theorem wrLen (data : Word) : Statement (.wrLen data) := by
  simp [Statement, encode, codeNumber, codeIsEC, rowMatch, HtOp.key]
theorem wrCtrl (data : Word) : Statement (.wrCtrl data) := by
  simp [Statement, encode, codeNumber, codeIsEC, rowMatch, HtOp.key]
theorem wrStatus (data : Word) : Statement (.wrStatus data) := by
  simp [Statement, encode, codeNumber, codeIsEC, rowMatch, HtOp.key]
theorem wrResult (data : Word) : Statement (.wrResult data) := by
  simp [Statement, encode, codeNumber, codeIsEC, rowMatch, HtOp.key]
theorem wrRsvd14 (data : Word) : Statement (.wrRsvd14 data) := by
  simp [Statement, encode, codeNumber, codeIsEC, rowMatch, HtOp.key]
theorem wrRsvd18 (data : Word) : Statement (.wrRsvd18 data) := by
  simp [Statement, encode, codeNumber, codeIsEC, rowMatch, HtOp.key]
theorem wrRsvd1C (data : Word) : Statement (.wrRsvd1C data) := by
  simp [Statement, encode, codeNumber, codeIsEC, rowMatch, HtOp.key]

end Sys2Proof.Laws.TableRow
end

