-- ==== Sys2Proof/Laws/Step.lean ====
section
/-! SUPPORT. Inversion of `step`, and small laws of runs. -/

namespace Sys2Proof.Machine

@[simp] theorem step_empty {s : State} (h : s.inbox = []) : step s = engineTurn s := by
  simp [step, h]

theorem step_event {s : State} {e : Event} {es : List Event} (h : s.inbox = e :: es) :
    step s = takeEvent e (popEvent s) := by
  simp [step, h]

/-- What the engine's turn is. -/
theorem engineTurn_idle {s : State} (h : s.busy = false) : engineTurn s = .next s := by
  simp [engineTurn, h]

theorem engineTurn_stuck {s : State} (h : engineStuck s = true) : engineTurn s = .next s := by
  simp [engineTurn, h]

theorem engineTurn_finish {s : State} (h : s.busy = true) (hc : s.cnt = s.lenL) :
    engineTurn s = .next (flagsFinished s) := by
  have hs : engineStuck s = false := by simp [engineStuck, allConsumed, hc]
  have ha : allConsumed s = true := by simp [allConsumed, hc]
  simp only [engineTurn, hs, h, ecWord_finish h hc, exec, execEngFinish, ha]
  rfl

theorem engineTurn_step {s : State} (h : s.busy = true) (hc : s.cnt ≠ s.lenL)
    (ha : admits s.plat (bufferAddr s) = true) :
    engineTurn s = .next (consume (Memory.read s.mem (bufferAddr s)) s) := by
  have hs : engineStuck s = false := by simp [engineStuck, ha]
  have hn : allConsumed s = false := by simpa [allConsumed] using hc
  simp only [engineTurn, hs, h, ecWord_step h hc, exec, execEngStep, hn, memRead_admitted ha]
  rfl

/-- A host access: no effect on the block, or an operation of the block, or a refusal. -/
theorem hostTurn_next {a : HostAccess} {s t : State} (h : hostTurn a s = .next t) :
    t = s ∨ ∃ i : Instr, i.isHost = true ∧ exec i s = .next t := by
  unfold hostTurn at h
  split at h
  · exact .inl (by simpa using h.symm)
  · simp at h
  · simp at h
  · rename_i key data _
    obtain ⟨op, -, hd⟩ | ⟨-, hd⟩ := decodeHT_cases key data
    · rw [hd] at h
      exact .inr ⟨_, withData_isHost op data, h⟩
    · rw [hd] at h
      simp at h

/-- An operation that does not program the block answers, and changes RDATA and the count of draws at most. -/
theorem exec_answers {op : HtOp} (h : writesProgram op = false) (data : Word) (s : State) :
    ∃ (v : Word) (n : Nat), exec (op.withData data) s = .next { s with rdata := v, draws := n } := by
  cases op with
  | wrBase | wrLen | wrCtrl => cases h
  | rdResult =>
    cases hd : s.done
    · exact ⟨unspecifiedRead s, s.draws + 1, by simp [HtOp.withData, exec, execRdResult, hd, reply, drawn]⟩
    · exact ⟨accRead s, s.draws, by simp [HtOp.withData, exec, execRdResult, hd, reply]⟩
  | rdBase => exact ⟨baseRead s, s.draws, rfl⟩
  | rdLen => exact ⟨lenRead s, s.draws, rfl⟩
  | rdCtrl | rdRsvd14 | rdRsvd18 | rdRsvd1C => exact ⟨zeroRead, s.draws, rfl⟩
  | rdStatus => exact ⟨statusWord s, s.draws, rfl⟩
  | wrStatus | wrResult | wrRsvd14 | wrRsvd18 | wrRsvd1C => exact ⟨s.rdata, s.draws, rfl⟩

/-- A bystander's host access: RDATA and the count of draws at most. -/
theorem hostTurn_bystander {a : HostAccess} {s : State} (h : bystander s.plat (.host a) = true) :
    ∃ (v : Word) (n : Nat), hostTurn a s = .next { s with rdata := v, draws := n } := by
  simp only [bystander] at h
  split at h
  · rename_i hr
    exact ⟨s.rdata, s.draws, by simp [hostTurn, hr]⟩
  · cases h
  · cases h
  · rename_i key data hr
    split at h
    · rename_i op hk
      obtain ⟨v, n, he⟩ := exec_answers (by simpa using h) data s
      exact ⟨v, n, by simp [hostTurn, hr, decodeHT, hk, he]⟩
    · cases h

/-- A bystander's store is one of the buffer space, so it happens. -/
theorem storeTurn_bystander {a : Nat} {b : Byte} {s : State} (h : bystander s.plat (.store a b) = true) :
    storeTurn a b s = .next (storeByte a b s) := by
  have hs : inSpace s.plat a = true := h
  simp [storeTurn, hs]

theorem engineTurn_next {s t : State} (h : engineTurn s = .next t) :
    t = s ∨ ∃ i : Instr, decodeEC (ecWord s) = .ok i ∧ exec i s = .next t := by
  unfold engineTurn at h
  split at h
  · exact .inl (by simpa using h.symm)
  · split at h
    · rename_i i hi
      exact .inr ⟨i, hi, h⟩
    · exact .inl (by simpa using h.symm)

/-- Everything a step can do: an effect of one operation, a store of another agent, or reset, in the state from whose
inbox the event is gone (or in the state itself when none is pending). -/
theorem step_cases {s t : State} (h : step s = .next t) :
    (s.inbox = [] ∧ Effect s t) ∨
    (∃ e es, s.inbox = e :: es ∧
      (Effect (popEvent s) t ∨
       (∃ a b, e = .store a b ∧ a < 2 ^ s.plat.addrW ∧ t = storeByte a b (popEvent s)) ∨
       (e = .reset ∧ t = resetBlock (popEvent s)))) := by
  cases hi : s.inbox with
  | nil =>
    rw [step_empty hi] at h
    refine .inl ⟨rfl, ?_⟩
    obtain rfl | ⟨i, -, hx⟩ := engineTurn_next h
    · exact .unchanged
    · exact exec_effect hx
  | cons e es =>
    rw [step_event hi] at h
    refine .inr ⟨e, es, rfl, ?_⟩
    cases e with
    | host a =>
      obtain rfl | ⟨i, -, hx⟩ := hostTurn_next h
      · exact .inl .unchanged
      · exact .inl (exec_effect hx)
    | engine =>
      obtain rfl | ⟨i, -, hx⟩ := engineTurn_next h
      · exact .inl .unchanged
      · exact .inl (exec_effect hx)
    | store a b =>
      simp only [takeEvent, storeTurn] at h
      split at h
      · rename_i hs
        exact .inr (.inl ⟨a, b, rfl, of_decide_eq_true hs, by simpa using h.symm⟩)
      · simp at h
    | reset =>
      simp only [takeEvent] at h
      exact .inr (.inr ⟨rfl, by simpa using h.symm⟩)

@[simp] theorem runSteps_zero (s : State) : runSteps 0 s = .next s := rfl

theorem runSteps_succ {k : Nat} {s t : State} (h : step s = .next t) : runSteps (k + 1) s = runSteps k t := by
  simp [runSteps, h]

theorem runSteps_add {j k : Nat} {s t : State} (h : runSteps j s = .next t) :
    runSteps (j + k) s = runSteps k t := by
  induction j generalizing s with
  | zero =>
    simp only [runSteps_zero, Host.Outcome.next.injEq] at h
    rw [h, Nat.zero_add]
  | succ j ih =>
    rw [show j + 1 + k = (j + k) + 1 by omega]
    simp only [runSteps] at h ⊢
    cases hs : step s with
    | next u =>
      rw [hs] at h
      exact ih h
    | fault f => simp [hs] at h
    | refused r => simp [hs] at h

@[simp] theorem readAddrs_zero (a : Nat) : readAddrs a 0 = [] := rfl

/-- One more read, at the end. -/
theorem readAddrs_append_last (a n : Nat) : readAddrs a (n + 1) = readAddrs a n ++ [a + n] := by
  induction n generalizing a with
  | zero => rfl
  | succ n ih =>
    rw [readAddrs, ih (a + 1), readAddrs]
    simp [Nat.add_assoc, Nat.add_comm 1 n]

/-- The access of a window reaches the block with its key. -/
theorem routeAccess_accessOf (p : Platform) (key : BitVec 6) (data : Word) :
    routeAccess p (accessOf p.regBase key data) = .reaches key data := by
  have hk : (keyOffset key).toNat < 32 := (keyOffset key).isLt
  have hw : Config.windowBytes = 32 := rfl
  unfold routeAccess accessOf
  simp only [hw]
  rw [if_neg (by omega), if_neg (by simp), if_neg (by omega)]
  simp

/-- A transaction of the block is its operation. -/
theorem hostTurn_accessOf (s : State) (op : HtOp) (data : Word) :
    hostTurn (accessOf s.plat.regBase op.key data) s = exec (op.withData data) s := by
  simp [hostTurn, routeAccess_accessOf]

end Sys2Proof.Machine
end

