-- ==== Sys2Proof/Tests/Slice0.lean ====
section
/-! SUPPORT. Tests of one step or one decoding each, with the expected results of spec/95_test_vectors.md and of the
rules' own examples; the smoke test of WellFormed; and a witness for the hypotheses of every statement that has some. -/

-- The theorems of this file are elaborated one after another: fewer threads at once.
set_option Elab.async false

namespace Sys2Proof.Tests

open Sys2Proof.Machine

/-! ## Helpers -/

/-- The outcome is a next state with the property. -/
def nextHas (o : Host.Outcome State Fault Refusal) (p : State → Bool) : Bool :=
  match o with
  | .next t => p t
  | .fault _ => false
  | .refused _ => false

/-- The outcome is this refusal. -/
def refusedAs (o : Host.Outcome State Fault Refusal) (r : Refusal) : Bool :=
  match o with
  | .next _ => false
  | .fault _ => false
  | .refused x => decide (x = r)

/-- The outcome is this fault. -/
def faultedAs (o : Host.Outcome State Fault Refusal) (f : Fault) : Bool :=
  match o with
  | .next _ => false
  | .fault x => decide (x = f)
  | .refused _ => false

/-- An idle machine whose four unspecified elements are 0. -/
def idle : State := { State.reset with acc := 0#16, cnt := 0#16, baseL := 0#32, lenL := 0#16 }

/-- An idle machine with ADDR_W = 16, as in 95_test_vectors.md 2.5. -/
def idle16 (base : Word) (len : Half) : State :=
  { idle with plat := { Platform.standard with addrW := 16 }, base := base, len := len }

/-- A machine in RUN over the buffer of `lenL` bytes at 0x1000. -/
def running (acc cnt lenL : Half) (mem : Memory) : State :=
  { idle with baseL := 0x1000#32, lenL := lenL, cnt := cnt, acc := acc, busy := true, mem := mem }

/-- A machine in RESULT with the value of ACC. -/
def result (acc : Half) : State := { idle with acc := acc, done := true }

/-- The machine with the events to come. -/
def withEvents (s : State) (es : List Event) : State := { s with inbox := es }

/-- A transaction of the window at REG_BASE = 0. -/
def tx (key : BitVec 6) (data : Word) : Event := .host (accessOf 0 key data)

/-! ## Well-formedness: each check refuses an ill-formed term -/

theorem test_engAccept_has_no_word_of_its_own : Instr.engAccept.wellFormed = false := by decide
theorem test_platform_width_zero : { Platform.standard with addrW := 0 : Platform }.wf = false := by decide
theorem test_platform_width_33 : { Platform.standard with addrW := 33 : Platform }.wf = false := by decide
theorem test_access_of_a_halfword :
    HostAccess.wellFormed Platform.standard { write := false, addr := 4, bytes := 2, data := 0 } = false := by decide
theorem test_access_below_the_window :
    HostAccess.wellFormed { Platform.standard with regBase := 64 }
      { write := false, addr := 60, bytes := 4, data := 0 } = false := by decide
theorem test_access_above_the_window :
    HostAccess.wellFormed Platform.standard { write := false, addr := 32, bytes := 4, data := 0 } = false := by decide
theorem test_access_misaligned :
    HostAccess.wellFormed Platform.standard { write := true, addr := 6, bytes := 4, data := 0 } = false := by decide
theorem test_access_fit :
    HostAccess.wellFormed Platform.standard { write := true, addr := 28, bytes := 4, data := 0 } = true := by decide
theorem test_asm_imm_too_wide : (AsmLine.wr .base 0x100000000).wellFormed = false := by decide
theorem test_pseudo_address_too_wide : (Pseudo.crc16 0x100000000 9 1).wellFormed = false := by decide
theorem test_pseudo_length_too_wide : (Pseudo.crc16 0x1000 0x100000000 1).wellFormed = false := by decide
theorem test_memory_unsorted : Memory.wf [(5, 1#8), (5, 2#8)] = false := by decide

/-! ## Decoding: words written out from R82, R83 and 95_test_vectors.md 2.4 -/

theorem test_decode_rdBase : decode (.ht 0b000000#6 0) = .ok .rdBase := by decide
theorem test_decode_rdLen : decode (.ht 0b000100#6 0) = .ok .rdLen := by decide
theorem test_decode_rdCtrl : decode (.ht 0b001000#6 0) = .ok .rdCtrl := by decide
theorem test_decode_rdStatus : decode (.ht 0b001100#6 0) = .ok .rdStatus := by decide
theorem test_decode_rdResult : decode (.ht 0b010000#6 0) = .ok .rdResult := by decide
theorem test_decode_rdRsvd14 : decode (.ht 0b010100#6 0) = .ok .rdRsvd14 := by decide
theorem test_decode_rdRsvd18 : decode (.ht 0b011000#6 0) = .ok .rdRsvd18 := by decide
theorem test_decode_rdRsvd1C : decode (.ht 0b011100#6 0) = .ok .rdRsvd1C := by decide
theorem test_decode_wrBase : decode (.ht 0b100000#6 0x1000#32) = .ok (.wrBase 0x1000#32) := by decide
theorem test_decode_wrLen : decode (.ht 0b100100#6 0x9#32) = .ok (.wrLen 9#32) := by decide
theorem test_decode_wrCtrl : decode (.ht 0b101000#6 0x1#32) = .ok (.wrCtrl 1#32) := by decide
theorem test_decode_wrStatus : decode (.ht 0b101100#6 0x2#32) = .ok (.wrStatus 2#32) := by decide
theorem test_decode_wrResult : decode (.ht 0b110000#6 0x3#32) = .ok (.wrResult 3#32) := by decide
theorem test_decode_wrRsvd14 : decode (.ht 0b110100#6 0x4#32) = .ok (.wrRsvd14 4#32) := by decide
theorem test_decode_wrRsvd18 : decode (.ht 0b111000#6 0x5#32) = .ok (.wrRsvd18 5#32) := by decide
theorem test_decode_wrRsvd1C : decode (.ht 0b111100#6 0x6#32) = .ok (.wrRsvd1C 6#32) := by decide
theorem test_decode_engStep : decode (.ec 0b10#2) = .ok .engStep := by decide
theorem test_decode_engFinish : decode (.ec 0b11#2) = .ok .engFinish := by decide
theorem test_decode_engine_idle :
    decode (.ec 0b00#2) = .rejected .engineIdle ∧ decode (.ec 0b01#2) = .rejected .engineIdle := by decide

/-- The refused keys that 95_test_vectors.md 2.4 names. -/
theorem test_decode_refused_keys :
    [0x01#6, 0x02#6, 0x03#6, 0x06#6, 0x21#6, 0x2A#6, 0x3F#6].all
      (fun k => decide (decodeKey k = .rejected (.misaligned (keyOffset k)))) = true := by decide

/-- 16 of the 64 keys decode (R82). -/
theorem test_sixteen_keys_decode :
    ((List.range 64).filter (fun k => decide (decodeKey (BitVec.ofNat 6 k) ≠
      .rejected (.misaligned (keyOffset (BitVec.ofNat 6 k)))))).length = 16 := by decide

/-- The rows of the opcode table as numbers; ENG_ACCEPT's row is WR_CTRL's (R87). -/
theorem test_table_rows :
    [0x00, 0x04, 0x08, 0x0C, 0x10, 0x14, 0x18, 0x1C, 0x20, 0x24, 0x28, 0x2C, 0x30, 0x34, 0x38, 0x3C, 2, 3].map
      (decodeTableWord 8) =
    [some .rdBase, some .rdLen, some .rdCtrl, some .rdStatus, some .rdResult, some .rdRsvd14, some .rdRsvd18,
     some .rdRsvd1C, some (.wrBase 0), some (.wrLen 0), some (.wrCtrl 0), some (.wrStatus 0), some (.wrResult 0),
     some (.wrRsvd14 0), some (.wrRsvd18 0), some (.wrRsvd1C 0), some .engStep, some .engFinish] := by decide
theorem test_table_data_word : decodeTableWord 40 0x0000000928 = some (.wrCtrl 9#32) := by decide
theorem test_table_no_such_word : decodeTableWord 8 0x40 = none ∧ decodeTableWord 8 1 = none := by decide
theorem test_fetch_places_wrLen :
    nextHas (step (State.reset.withFetchWord 40 0x924)) (fun t => t.len = 9#16) = true := by decide
theorem test_fetch_places_engFinish : nextHas (step (State.reset.withFetchWord 8 3)) (fun t => t.done) = true := by decide
theorem test_fetch_places_engStep :
    nextHas (step (State.reset.withFetchWord 8 2)) (fun t => t.cnt = 1#16) = true := by decide
theorem test_fetch_refuses_a_misaligned_key :
    refusedAs (step (State.reset.withFetchWord 8 0x21)) (.misalignedAccess 1#5) = true := by decide
theorem test_fetch_refuses_no_key : refusedAs (step (State.reset.withFetchWord 8 0x7C)) (.accessWidth 1) = true := by
  decide

/-- R90's example: `wr len, 9` encodes as key=0x24 data=0x00000009; and the lines of `crc16 0x1000, 9` (R91, P1). -/
theorem test_assembly :
    (Pseudo.crc16 0x1000 9 1).expand.map AsmLine.code =
      [.ht 0x20 0x1000, .ht 0x24 9, .ht 0x28 1, .ht 0x0C 0, .ht 0x10 0] := by decide

/-! ## The CRC: 95_test_vectors.md 2.1 to 2.3 -/

theorem test_bitStep :
    [0x0000#16, 0x0001#16, 0x0002#16, 0x8000#16, 0xFFFF#16, 0xA001#16, 0x00FE#16].map bitStep =
      [0x0000#16, 0xA001#16, 0x0001#16, 0x4000#16, 0xDFFE#16, 0xF001#16, 0x007F#16] := by decide
theorem test_bitStep_chain_of_1 :
    (List.range 8).map (fun k => bitSteps (k + 1) 0x0001#16) =
      [0xA001#16, 0xF001#16, 0xD801#16, 0xCC01#16, 0xC601#16, 0xC301#16, 0xC181#16, 0xC0C1#16] := by decide
theorem test_table_entries :
    [0x00#8, 0x01#8, 0x80#8, 0xCE#8, 0xFE#8, 0xFF#8].map T =
      [0x0000#16, 0xC0C1#16, 0xA001#16, 0x9481#16, 0x8081#16, 0x4040#16] := by decide +kernel
theorem test_crcStep :
    [(0xFFFF#16, 0x00#8), (0x0000#16, 0xFF#8), (0xFFFF#16, 0xFF#8), (0x1234#16, 0x34#8), (0x1234#16, 0x00#8),
     (0xABCD#16, 0xEF#8), (0x00FF#16, 0xFF#8), (0x8000#16, 0x01#8)].map (fun x => crcStep x.1 x.2) =
      [0x40BF#16, 0x4040#16, 0x00FF#16, 0x0012#16, 0xD713#16, 0x192B#16, 0x0000#16, 0xC041#16] := by decide +kernel
theorem test_crc16_check_value :
    crc16 [0x31, 0x32, 0x33, 0x34, 0x35, 0x36, 0x37, 0x38, 0x39] = 0x4B37#16 := by decide +kernel
theorem test_crc16_little_endian_residue :
    crcBytes 0x4B37#16 = [0x37#8, 0x4B#8] ∧
    crc16 ([0x31, 0x32, 0x33, 0x34, 0x35, 0x36, 0x37, 0x38, 0x39] ++ crcBytes 0x4B37#16) = 0#16 := by decide +kernel

/-! ## Host operations: 95_test_vectors.md 2.5 and the rules' examples -/

theorem test_rdBase_reset : nextHas (exec .rdBase State.reset) (fun t => t.rdata = 0#32) = true := by decide
theorem test_wrBase_then_rdBase : nextHas (exec (.wrBase 0x12345678#32) (idle16 0 0))
    (fun t => nextHas (exec .rdBase t) (fun u => u.rdata = 0x00005678#32)) = true := by decide
theorem test_wrLen_discards_high_half : nextHas (exec (.wrLen 0x00012345#32) idle)
    (fun t => nextHas (exec .rdLen t) (fun u => u.rdata = 0x00002345#32)) = true := by decide
theorem test_wrLen_65536_is_0 : nextHas (exec (.wrLen 0x00010000#32) idle)
    (fun t => nextHas (exec .rdLen t) (fun u => u.rdata = 0#32)) = true := by decide
theorem test_rdCtrl_busy : nextHas (exec .rdCtrl (running 0 0 1 [])) (fun t => t.rdata = 0#32 && t.busy) = true := by
  decide
theorem test_rdStatus_phases :
    nextHas (exec .rdStatus State.reset) (fun t => t.rdata = 0#32) = true ∧
    nextHas (exec .rdStatus (running 0 0 1 [])) (fun t => t.rdata = 1#32) = true ∧
    nextHas (exec .rdStatus (result 0)) (fun t => t.rdata = 2#32) = true := by decide
theorem test_rdResult_done : nextHas (exec .rdResult (result 0x4B37#16)) (fun t => t.rdata = 0x00004B37#32) = true := by
  decide
theorem test_rdResult_unspecified_draws : nextHas (exec .rdResult State.reset) (fun t => t.draws = 5) = true := by decide
theorem test_wrStatus_keeps_done : nextHas (exec (.wrStatus 0) (result 0x4B37#16)) (fun t => t.done) = true := by decide
theorem test_wrResult_keeps_result :
    nextHas (exec (.wrResult 0) (result 0x4B37#16)) (fun t => t.acc = 0x4B37#16) = true := by decide
theorem test_wrRsvd_keep_the_state :
    nextHas (exec (.wrRsvd14 0xFFFFFFFF#32) idle) (fun t => t = idle) = true ∧
    nextHas (exec (.wrRsvd18 1) idle) (fun t => t = idle) = true ∧
    nextHas (exec (.wrRsvd1C 1) idle) (fun t => t = idle) = true := by decide
theorem test_rdRsvd_zero :
    nextHas (exec .rdRsvd14 idle) (fun t => t.rdata = 0#32) = true ∧
    nextHas (exec .rdRsvd18 idle) (fun t => t.rdata = 0#32) = true ∧
    nextHas (exec .rdRsvd1C idle) (fun t => t.rdata = 0#32) = true := by decide
theorem test_wrCtrl_zero_no_effect : nextHas (exec (.wrCtrl 0) idle) (fun t => t = idle) = true := by decide
theorem test_wrCtrl_wraps : refusedAs (exec (.wrCtrl 1) (idle16 0xFFFF 2)) .bufferWraps = true := by decide
theorem test_wrCtrl_last_byte :
    nextHas (exec (.wrCtrl 1) (idle16 0xFFFF 1)) (fun t => t.busy && bufferAddr t = 0xFFFF) = true := by decide
theorem test_wrCtrl_top_with_no_byte :
    nextHas (exec (.wrCtrl 1) (idle16 0xFFFF 0)) (fun t => t.busy && t.acc = 0xFFFF#16) = true := by decide
theorem test_wrCtrl_busy_ignored : nextHas (exec (.wrCtrl 1) (running 5 2 9 [])) (fun t => t.cnt = 2#16) = true := by
  decide
/-- R141's example: BASE = 0x1000 and LEN = 9. -/
theorem test_engAccept_example :
    nextHas (exec .engAccept { idle with base := 0x1000, len := 9 }) (fun t =>
      t.baseL = 0x1000#32 && t.lenL = 9#16 && t.cnt = 0#16 && t.acc = 0xFFFF#16 && statusWord t = 1#32) = true := by
  decide

/-! ## The sequencer: 95_test_vectors.md 2.6 -/

theorem test_engStep_first_byte : nextHas (exec .engStep (running 0xFFFF 0 9 [(0x1000, 0x31#8)]))
    (fun t => t.acc = 0x947E#16 && t.cnt = 1#16) = true := by decide +kernel
theorem test_engStep_last_byte : nextHas (exec .engStep (running 0x37DD 8 9 [(0x1008, 0x39#8)]))
    (fun t => t.acc = 0x4B37#16 && t.cnt = 9#16) = true := by decide +kernel
theorem test_engStep_no_wrap : nextHas (exec .engStep (running 0 65534 65535 []))
    (fun t => t.cnt = 65535#16) = true := by decide
theorem test_engStep_not_admitted :
    faultedAs (exec .engStep { running 0 0 1 [] with plat := { Platform.standard with admitted := [] } })
      (.readNotAdmitted 0x1000) = true := by decide
theorem test_engFinish : nextHas (exec .engFinish (running 0x4B37 9 9 []))
    (fun t => statusWord t = 2#32 && t.acc = 0x4B37#16) = true := by decide
theorem test_stuck_engine_stays_busy :
    nextHas (step { running 0 0 1 [] with plat := { Platform.standard with admitted := [] } })
      (fun t => t.busy && t.cnt = 0#16) = true := by decide
theorem test_store_then_read : nextHas (step (withEvents (running 0 0 1 [(0x1000, 1#8)]) [.store 0x1000 0x63#8]))
    (fun t => memRead t 0x1000 = some 0x63#8) = true := by decide
theorem test_reset_abandons : nextHas (step (withEvents (running 0 0 1 []) [.reset]))
    (fun t => !t.busy && !t.done && t.base = 0#32) = true := by decide

/-! ## Witnesses: for each statement with hypotheses, concrete values that meet them all, clause by clause -/

/-- A state of the invariant in RUN: one byte of two consumed. -/
def halfway : State :=
  { running 0x947E 1 2 [(0x1000, 0x31#8), (0x1001, 0x32#8)] with readLog := [(0x1000, 0x31#8)] }

/-- A state of the invariant in RESULT: the empty computation's. -/
def emptyResult : State := result 0xFFFF#16

theorem idle_inv : State.Inv idle :=
  ⟨rfl, rfl, by decide, by decide, by decide, nofun, nofun⟩

theorem halfway_inv : State.Inv halfway :=
  ⟨rfl, rfl, by decide, by decide, by decide,
    fun _ => ⟨by decide, by decide, by decide +kernel, .inr (by decide)⟩, nofun⟩

theorem emptyResult_inv : State.Inv emptyResult :=
  ⟨rfl, rfl, by decide, by decide, by decide, nofun, fun _ => ⟨⟨by decide, rfl, rfl, .inl rfl⟩, rfl⟩⟩

theorem witness_HtKeysDecodeAsListed :
    (0b000001#6).extractLsb' 0 2 ≠ 0#2 ∧ (0b111111#6).extractLsb' 0 2 ≠ 0#2 := by decide

theorem witness_DecodeAndEncodeAgree :
    (Instr.wrBase 0xFFFFFFFF#32).wellFormed = true ∧
    decode (.ht 0x3C#6 0xFFFFFFFF#32) = .ok (.wrRsvd1C 0xFFFFFFFF#32) ∧ (0x3C#6).getLsbD 5 = true ∧
    decode (.ec 0b10#2) = .ok .engStep := by decide

theorem witness_EngineConditionSelectsMicroOp :
    idle.busy = false ∧
    ((running 0 0 1 []).busy = true ∧ (running 0 0 1 []).cnt ≠ (running 0 0 1 []).lenL) ∧
    ((running 0 1 1 []).busy = true ∧ (running 0 1 1 []).cnt = (running 0 1 1 []).lenL) := by decide

theorem witness_StepRunsTheDecodedTransaction :
    (withEvents idle [tx 0x24#6 9#32, .engine]).inbox =
      .host (accessOf (withEvents idle [tx 0x24#6 9#32, .engine]).plat.regBase 0x24#6 9#32) :: [.engine] ∧
    decodeHT 0x24#6 9#32 = .ok (.wrLen 9#32) := by decide

theorem witness_StepRunsTheSelectedMicroOp :
    decodeEC (ecWord (running 0 0 1 [])) = .ok .engStep ∧ engineStuck (running 0 0 1 []) = false ∧
    (running 0 0 1 []).inbox = [] ∧
    decodeEC (ecWord (withEvents (running 0 1 1 []) [.engine])) = .ok .engFinish ∧
    engineStuck (withEvents (running 0 1 1 []) [.engine]) = false ∧
    (withEvents (running 0 1 1 []) [.engine]).inbox = .engine :: [] := by decide

theorem witness_IdleEngineKeepsAllState :
    idle.busy = false ∧ idle.inbox = [] ∧ (withEvents (result 0) [.engine]).busy = false ∧
    (withEvents (result 0) [.engine]).inbox = .engine :: [] := by decide

/-- A running machine on a platform that admits no read. -/
def barred : State := { running 0 0 1 [] with plat := { Platform.standard with admitted := [] } }

theorem witness_UnadmittedReadLeavesEngineStuck :
    barred.busy = true ∧ barred.cnt ≠ barred.lenL ∧
    admits barred.plat (barred.baseL.toNat + barred.cnt.toNat) = false ∧ barred.inbox = [] ∧
    (withEvents barred [.engine]).inbox = .engine :: [] := by decide

/-- An idle machine with its window at 64 and one access pending. -/
def accessing (addr bytes : Nat) : State :=
  { idle with
    plat := { Platform.standard with regBase := 64 }
    inbox := [.host { write := true, addr := addr, bytes := bytes, data := 1#32 }] }

/-- The clauses of UnfitHostAccessesAreRefused at the edges of the window: a byte access of its last byte, an access
that begins 3 bytes below it, accesses at offsets 1 and 31, and accesses that end below it and begin above it. -/
theorem witness_UnfitHostAccessesAreRefused :
    refusedAs (step (accessing 95 1)) (.accessWidth 1) = true ∧
    refusedAs (step (accessing 61 4)) (.straddlesWindow 61) = true ∧
    refusedAs (step (accessing 65 4)) (.misalignedAccess 1#5) = true ∧
    refusedAs (step (accessing 95 4)) (.misalignedAccess 31#5) = true ∧
    nextHas (step (accessing 60 4)) (fun t => !t.busy) = true ∧
    nextHas (step (accessing 96 4)) (fun t => !t.busy) = true ∧
    ((accessing 95 1).plat.regBase < 95 + 1 ∧ 95 < (accessing 95 1).plat.regBase + 32 ∧ 1 ≠ 4) ∧
    ((accessing 61 4).plat.regBase < 61 + 4 ∧ 61 < (accessing 61 4).plat.regBase) ∧
    ((accessing 95 4).plat.regBase ≤ 95 ∧ 95 < (accessing 95 4).plat.regBase + 32 ∧ (95 - 64) % 4 ≠ 0) ∧
    60 + 4 ≤ (accessing 60 4).plat.regBase ∧ (accessing 96 4).plat.regBase + 32 ≤ 96 := by decide

theorem witness_EveryWellFormedAccessRunsAnOperation :
    HostAccess.wellFormed { Platform.standard with regBase := 64 }
      { write := true, addr := 64, bytes := 4, data := 1#32 } = true ∧
    HostAccess.wellFormed { Platform.standard with regBase := 64 }
      { write := true, addr := 92, bytes := 4, data := 1#32 } = true ∧
    (accessing 92 4).plat = { Platform.standard with regBase := 64 } ∧
    (accessing 92 4).inbox = .host { write := true, addr := 92, bytes := 4, data := 1#32 } :: [] := by decide

theorem witness_ReadStatusShowsBusyAndDone : State.Inv halfway ∧ halfway.busy = true := ⟨halfway_inv, rfl⟩

theorem witness_ReadResultReturnsAccWhenDone : (result 0x4B37).done = true ∧ idle.done = false := by decide

/-- WR_CTRL: accepted with a byte, accepted with none, refused, not a START, BUSY. -/
theorem witness_WriteCtrlStartsWhenIdle :
    ((1#32).getLsbD 0 = true ∧ (idle16 0xFFFF 1).busy = false ∧
      (idle16 0xFFFF 1).base.toNat + (idle16 0xFFFF 1).len.toNat ≤ 2 ^ (idle16 0xFFFF 1).plat.addrW) ∧
    (idle16 0xFFFF 0).len = 0#16 ∧
    ((idle16 0xFFFF 2).busy = false ∧ (idle16 0xFFFF 2).len ≠ 0#16 ∧
      2 ^ (idle16 0xFFFF 2).plat.addrW < (idle16 0xFFFF 2).base.toNat + (idle16 0xFFFF 2).len.toNat) ∧
    (0xFFFFFFFE#32).getLsbD 0 = false ∧ (running 0 0 1 []).busy = true := by decide

theorem witness_StartAndFinishContend :
    (withEvents (running 7 1 1 []) [tx 0x28#6 1#32, .engine]).busy = true ∧
    (withEvents (running 7 1 1 []) [tx 0x28#6 1#32, .engine]).cnt = 1#16 ∧
    (withEvents (running 7 1 1 []) [tx 0x28#6 1#32, .engine]).lenL = 1#16 ∧ (1#32).getLsbD 0 = true ∧
    (running 7 1 1 []).len = 0#16 ∧
    (withEvents (running 7 1 1 []) [tx 0x28#6 1#32, .engine]).inbox =
      .host (accessOf (running 7 1 1 []).plat.regBase 0x28#6 1#32) :: .engine :: [] ∧
    (withEvents (running 7 1 1 []) [.engine, tx 0x28#6 1#32]).inbox =
      .engine :: .host (accessOf (running 7 1 1 []).plat.regBase 0x28#6 1#32) :: [] := by decide

theorem witness_AcceptLatchesAndInitialises :
    ((idle16 0xFFFF 1).busy = false ∧
      (idle16 0xFFFF 1).base.toNat + (idle16 0xFFFF 1).len.toNat ≤ 2 ^ (idle16 0xFFFF 1).plat.addrW) ∧
    ((idle16 0xFFFF 2).busy = false ∧ (idle16 0xFFFF 2).len ≠ 0#16 ∧
      2 ^ (idle16 0xFFFF 2).plat.addrW < (idle16 0xFFFF 2).base.toNat + (idle16 0xFFFF 2).len.toNat) ∧
    (running 0 0 1 []).busy = true ∧
    nextHas (exec .engAccept (idle16 0xFFFF 0)) (fun _ => true) = true ∧ (idle16 0xFFFF 0).len = 0#16 ∧
    nextHas (exec .engAccept (idle16 0xFFFF 1)) (fun _ => true) = true := by decide

theorem witness_EngStepConsumesOneByte :
    (halfway.busy = true ∧ halfway.cnt ≠ halfway.lenL ∧
      admits halfway.plat (halfway.baseL.toNat + halfway.cnt.toNat) = true) ∧
    (nextHas (exec .engStep halfway) (fun t => t.cnt = 2#16) = true) ∧
    idle.busy = false ∧ (running 0 1 1 []).cnt = (running 0 1 1 []).lenL := by decide

theorem witness_FinishPublishesResult :
    ((running 0 9 9 []).busy = true ∧ (running 0 9 9 []).cnt = (running 0 9 9 []).lenL) ∧ idle.busy = false ∧
    (running 0 0 1 []).cnt ≠ (running 0 0 1 []).lenL := by decide

theorem witness_ResetEventClearsTheBlock : (withEvents halfway [.reset, .engine]).inbox = .reset :: [.engine] := by
  decide

/-- A store to the last byte of a 16-bit space, and one just above it. -/
theorem witness_StoresOfOthersReachTheBuffer :
    (withEvents (idle16 0 0) [.store 0xFFFF 1#8]).inbox = .store 0xFFFF 1#8 :: [] ∧
    0xFFFF < 2 ^ (idle16 0 0).plat.addrW ∧ admits (idle16 0 0).plat 0xFFFF = true ∧
    2 ^ (idle16 0 0).plat.addrW ≤ 0x10000 := by decide

theorem witness_NoOperationWritesMemory :
    nextHas (exec .engStep halfway) (fun _ => true) = true ∧
    nextHas (step halfway) (fun _ => true) = true ∧ halfway.inbox.head? = none := by decide

/-- For each frame statement: a START accepted, an ENG_STEP, an ENG_FINISH and a write of BASE complete. -/
theorem witness_AccWrittenOnlyByAcceptAndStep :
    (nextHas (exec (.wrCtrl 1) idle) (fun _ => true) = true ∧ acceptsStart (.wrCtrl 1) idle = true) ∧
    nextHas (exec .engStep halfway) (fun _ => true) = true ∧
    (nextHas (exec (.wrBase 5) idle) (fun _ => true) = true ∧ acceptsStart (.wrBase 5) idle = false) := by decide

theorem witness_CntWrittenOnlyByAcceptAndStep :
    (nextHas (exec .engAccept idle) (fun _ => true) = true ∧ acceptsStart .engAccept idle = true) ∧
    nextHas (exec .engStep halfway) (fun _ => true) = true ∧
    (nextHas (exec .rdLen idle) (fun _ => true) = true ∧ acceptsStart .rdLen idle = false) := by decide

theorem witness_LatchesWrittenOnlyByAccept :
    (nextHas (exec (.wrCtrl 3) idle) (fun _ => true) = true ∧ acceptsStart (.wrCtrl 3) idle = true) ∧
    (nextHas (exec (.wrBase 5) halfway) (fun _ => true) = true ∧ acceptsStart (.wrBase 5) halfway = false) := by decide

theorem witness_FlagsWrittenOnlyByAcceptAndFinish :
    (nextHas (exec (.wrCtrl 1) (result 0)) (fun _ => true) = true ∧ acceptsStart (.wrCtrl 1) (result 0) = true) ∧
    nextHas (exec .engFinish (running 0 1 1 [])) (fun _ => true) = true ∧
    (nextHas (exec (.wrCtrl 1) halfway) (fun _ => true) = true ∧ acceptsStart (.wrCtrl 1) halfway = false) := by decide

theorem witness_BaseAndLenWrittenOnlyByTheirWrites :
    nextHas (exec (.wrLen 5) idle) (fun _ => true) = true ∧ nextHas (exec (.wrBase 5) idle) (fun _ => true) = true := by
  decide

theorem witness_ReadsHaveNoSideEffect : nextHas (exec .rdResult idle) (fun _ => true) = true := by decide

theorem witness_HiddenStateIsNotReadable :
    (idle.done = true → 7#16 = idle.acc) ∧ (result 7).done = true ∧ 7#16 = (result 7).acc ∧
    nextHas (exec .rdResult idle) (fun _ => true) = true ∧
    nextHas (exec .rdResult { idle with acc := 7#16, cnt := 1#16 }) (fun _ => true) = true := by decide

theorem witness_HostOperationsCompleteInOneEvent :
    (Instr.wrCtrl 1).isHost = true ∧ acceptsStart (.wrCtrl 1) (idle16 0xFFFF 2) = true ∧
    Instr.rdStatus.isHost = true ∧ acceptsStart .rdStatus halfway = false := by decide

theorem witness_EveryStepKeepsTheInvariant :
    State.Inv halfway ∧ nextHas (step halfway) (fun t => t.cnt = 2#16) = true := ⟨halfway_inv, by decide⟩

/-- RUN to RESULT on the engine's turn, pending or not; IDLE and RESULT to RUN on a START; reset out of RUN. -/
theorem witness_PhasesChangeOnlyAsTheTableSays :
    (phase (running 0 1 1 []) = some .run ∧
      nextHas (step (running 0 1 1 [])) (fun t => phase t = some .result) = true) ∧
    nextHas (step (withEvents (running 0 1 1 []) [.engine])) (fun t => phase t = some .result) = true ∧
    (phase idle = some .idle ∧
      nextHas (step (withEvents idle [tx 0x28#6 1#32])) (fun t => phase t = some .run) = true) ∧
    (phase (result 0) = some .result ∧
      nextHas (step (withEvents (result 0) [tx 0x28#6 1#32])) (fun t => phase t = some .run) = true) ∧
    nextHas (step (withEvents halfway [.reset])) (fun t => phase t = some .idle) = true := by decide

/-- A RESULT whose START stands after the two steps looked at, and one whose DONE falls by the START itself. -/
theorem witness_ResultStandsUntilTheNextStart :
    (emptyResult.done = true ∧
      nextHas (step (withEvents emptyResult [tx 0x28#6 1])) (fun t => !t.done && t.busy) = true ∧
      nextHas (step (withEvents emptyResult [.reset])) (fun t => !t.done) = true) ∧
    State.Inv (withEvents emptyResult [tx 0x10#6 0, .engine, tx 0x28#6 1]) ∧
    nextHas (runSteps 2 (withEvents emptyResult [tx 0x10#6 0, .engine, tx 0x28#6 1]))
      (fun t => t.rdata = 0xFFFF#32 && t.inbox = [tx 0x28#6 1]) = true ∧
    (withEvents emptyResult [tx 0x10#6 0, .engine, tx 0x28#6 1]).inbox.take 2 = [tx 0x10#6 0, .engine] ∧
    isStartAccess emptyResult.plat (accessOf 0 0x10#6 0) = false :=
  ⟨by decide, ⟨rfl, rfl, by decide, by decide, by decide, nofun,
    fun _ => ⟨⟨by decide, rfl, rfl, .inl rfl⟩, rfl⟩⟩, by decide, rfl, by decide⟩

theorem witness_CrcStepFormulaAndCorners : (0x1234#16).extractLsb' 0 8 = 0x34#8 := by decide

theorem witness_CrcIsLinear : [1#8, 2#8].length = [3#8, 4#8].length := by decide

theorem witness_AllZeroBuffersAreDetected : 1 ≤ 65535 := by decide

theorem witness_OneByteChangeIsDetected : (0x64#8) ≠ (0x63#8) := by decide

/-- A machine programmed for the one byte at address 65535 of a 16-bit space, and one for no byte there. -/
theorem witness_ComputationYieldsTheCrcOfTheBuffer :
    (1#32).getLsbD 0 = true ∧ (idle16 0xFFFF 1).busy = false ∧ (idle16 0xFFFF 1).inbox = [] ∧
    (idle16 0xFFFF 1).base.toNat + (idle16 0xFFFF 1).len.toNat ≤ 2 ^ (idle16 0xFFFF 1).plat.addrW ∧
    (∀ a, (idle16 0xFFFF 1).base.toNat ≤ a → a < (idle16 0xFFFF 1).base.toNat + (idle16 0xFFFF 1).len.toNat →
      admits (idle16 0xFFFF 1).plat a = true) ∧
    (idle16 0xFFFF 0).len = 0#16 := by
  refine ⟨by decide, by decide, by decide, by decide, fun a h1 h2 => ?_, by decide⟩
  have e1 : (idle16 0xFFFF 1).base.toNat = 65535 := by decide
  have e2 : (idle16 0xFFFF 1).len.toNat = 1 := by decide
  obtain rfl : a = 65535 := by omega
  decide

theorem witness_ZeroLengthReadsNothing :
    (1#32).getLsbD 0 = true ∧ (idle16 0xFFFF 0).busy = false ∧ (idle16 0xFFFF 0).inbox = [] ∧
    (idle16 0xFFFF 0).len = 0#16 := by decide

/-- The same byte at two addresses, on two platforms, after different histories. -/
def isoOne : State := { idle16 0xFFFF 1 with mem := [(0xFFFF, 0x31#8)] }
def isoTwo : State := { result 5 with base := 0x1000#32, len := 1#16, mem := [(0x1000, 0x31#8)] }

theorem witness_ComputationsAreIsolated :
    isoOne.busy = false ∧ isoTwo.busy = false ∧ isoOne.inbox = [] ∧ isoTwo.inbox = [] ∧ isoOne.len = isoTwo.len ∧
    isoOne.base.toNat + isoOne.len.toNat ≤ 2 ^ isoOne.plat.addrW ∧
    isoTwo.base.toNat + isoTwo.len.toNat ≤ 2 ^ isoTwo.plat.addrW ∧
    (∀ a, isoOne.base.toNat ≤ a → a < isoOne.base.toNat + isoOne.len.toNat → admits isoOne.plat a = true) ∧
    (∀ a, isoTwo.base.toNat ≤ a → a < isoTwo.base.toNat + isoTwo.len.toNat → admits isoTwo.plat a = true) ∧
    Memory.bytes isoOne.mem isoOne.base.toNat isoOne.len.toNat =
      Memory.bytes isoTwo.mem isoTwo.base.toNat isoTwo.len.toNat := by
  refine ⟨by decide, by decide, by decide, by decide, by decide, by decide, by decide, fun a h1 h2 => ?_,
    fun a h1 h2 => ?_, by decide⟩
  · have e1 : isoOne.base.toNat = 65535 := by decide
    have e2 : isoOne.len.toNat = 1 := by decide
    obtain rfl : a = 65535 := by omega
    decide
  · have e1 : isoTwo.base.toNat = 4096 := by decide
    have e2 : isoTwo.len.toNat = 1 := by decide
    obtain rfl : a = 4096 := by omega
    decide

/-- The events between the START of a call over the one byte at 0xFFFF and its FINISH, and one turn more. -/
def callRunning : List Event :=
  [tx 0x0C#6 0, .engine, .store 0xFFFE 7#8, tx 0x2C#6 0, .host ⟨true, 32, 1, 0#32⟩, .engine, .engine]

/-- R188 with everything its conditions leave room for: after WR_BASE an early turn and a store into the buffer (its last
value before the START), after WR_LEN another host's read of LEN, while running a poll, a store just below the buffer, an
ignored write of STATUS and an access above the window, and after the FINISH a store into the buffer and a last poll. -/
theorem witness_HostCallReturnsTheCrc :
    (idle16 0 0).busy = false ∧ (0xFFFF#32).toNat < 2 ^ (idle16 0 0).plat.addrW ∧
    (0xFFFF#32).toNat + (1#16).toNat ≤ 2 ^ (idle16 0 0).plat.addrW ∧ admits (idle16 0 0).plat 0xFFFF = true ∧
    ([Event.engine, .store 0xFFFF 0x31#8] ++ [tx 0x04#6 0] ++ callRunning ++ [Event.store 0xFFFF 0#8, tx 0x0C#6 0]).all
      (bystander (idle16 0 0).plat) = true ∧
    0xFFFE < (0xFFFF#32).toNat ∧ (1#16).toNat + 1 ≤ engineTurns callRunning ∧
    nextHas (runSteps 16 (withEvents (idle16 0 0)
      ([tx 0x20#6 0xFFFF] ++ [.engine, .store 0xFFFF 0x31#8] ++ [tx 0x24#6 1] ++ [tx 0x04#6 0] ++ [tx 0x28#6 1] ++
        callRunning ++ [.store 0xFFFF 0#8, tx 0x0C#6 0] ++ [tx 0x10#6 0] ++ [tx 0x28#6 1])))
      (fun t => t.rdata = 0x947E#32 && t.inbox = [tx 0x28#6 1]) = true := by decide +kernel

/-- What is no bystander of a call: a write of BASE, LEN or CTRL, a refused access, a store outside the space, reset. -/
theorem test_not_bystanders :
    [tx 0x20#6 0, tx 0x24#6 0, tx 0x28#6 0, tx 0x21#6 0, .store 0x10000 0#8, .reset].any
      (bystander (idle16 0 0).plat) = false := by decide

/-- Two computations of one byte 0x31 with an ignored START and a poll in one of them, after different histories. -/
theorem witness_ResultDependsOnlyOnTheBytesRead :
    acceptsStart (.wrCtrl 1) isoOne = true ∧ acceptsStart .engAccept isoTwo = true ∧
    nextHas (exec (.wrCtrl 1) (withEvents isoOne [.engine, tx 0x28#6 1, .engine]))
      (fun t => nextHas (runSteps 3 t) (fun u => u.done && u.readLog = [(0xFFFF, 0x31#8)])) = true ∧
    nextHas (exec .engAccept isoTwo)
      (fun t => nextHas (runSteps 2 t) (fun u => u.done && u.readLog = [(0x1000, 0x31#8)])) = true := by
  decide +kernel

end Sys2Proof.Tests
end

section
/-! The engine's state (10_state.md R22 to R37): which operation writes which element, what no read shows, what reset
leaves, and the invariant of R35. -/

namespace Sys2Proof.Machine

/-! ## What each operation writes -/

theorem not_micro_of_acceptsStart {i : Instr} {s : State} (h : acceptsStart i s = true) :
    i ≠ .engStep ∧ i ≠ .engFinish := by
  constructor <;> rintro rfl <;> cases h

theorem not_micro_of_isHost {i : Instr} (h : i.isHost = true) : i ≠ .engStep ∧ i ≠ .engFinish := by
  constructor <;> rintro rfl <;> cases h

/-- `exec_effect` with the operation kept beside what it does: every completed operation is an accepted START, one of the
two micro-operations, a write of BASE or LEN, or a host transaction that writes neither register nor engine state. -/
inductive Completed (s : State) : Instr → State → Prop where
  | accepted {i : Instr} : acceptsStart i s = true → Completed s i (latch s.base s.len s)
  | consumed {b : Byte} : memRead s (bufferAddr s) = some b → Completed s .engStep (consume b s)
  | finished : Completed s .engFinish (flagsFinished s)
  | baseWritten (data : Word) : Completed s (.wrBase data) (setBase (addrField s.plat data) s)
  | lenWritten (data : Word) : Completed s (.wrLen data) (setLen (lenField data) s)
  | quiet {i : Instr} (v : Word) (n : Nat) : i.isHost = true → acceptsStart i s = false →
      Completed s i { s with rdata := v, draws := n }

/-- What an operation that completes has done, by the operation. -/
theorem exec_completed {i : Instr} {s t : State} (h : exec i s = .next t) : Completed s i t := by
  cases i with
  | rdBase | rdLen | rdCtrl | rdStatus | rdRsvd14 | rdRsvd18 | rdRsvd1C =>
    cases h; exact .quiet _ s.draws rfl rfl
  | rdResult =>
    simp only [exec, execRdResult] at h
    split at h
    · cases h; exact .quiet (accRead s) s.draws rfl rfl
    · cases h; exact .quiet (unspecifiedRead s) (s.draws + 1) rfl rfl
  | wrStatus | wrResult | wrRsvd14 | wrRsvd18 | wrRsvd1C =>
    cases h; exact .quiet s.rdata s.draws rfl rfl
  | wrBase data => cases h; exact .baseWritten data
  | wrLen data => cases h; exact .lenWritten data
  | wrCtrl data =>
    obtain ⟨hs, hb, -, rfl⟩ | ⟨hi, rfl⟩ := execWrCtrl_next h
    · exact .accepted (by simp [acceptsStart, hs, hb])
    · exact .quiet t.rdata t.draws rfl (by obtain hs | hb := hi <;> simp [acceptsStart, *])
  | engAccept =>
    obtain ⟨hb, -, rfl⟩ := execEngAccept_next h
    exact .accepted (by simp [acceptsStart, hb])
  | engStep =>
    obtain ⟨-, -, ha, rfl⟩ := execEngStep_next h
    exact .consumed (memRead_admitted ha)
  | engFinish =>
    obtain ⟨-, -, rfl⟩ := execEngFinish_next h
    exact .finished

/-- Settles O29, by cases on what the completed operation has done. -/
theorem accWrittenOnlyByAcceptAndStep : Obligations.AccWrittenOnlyByAcceptAndStep := by
  intro i s t h
  cases exec_completed h with
  | accepted ha => simp [ha, Config.init, (not_micro_of_acceptsStart ha).1]
  | consumed hr => exact ⟨nofun, fun _ => ⟨_, hr, rfl⟩, fun _ hn => absurd rfl hn⟩
  | finished | baseWritten | lenWritten => exact ⟨nofun, nofun, fun _ _ => rfl⟩
  | quiet v n hh ha => simp [ha, (not_micro_of_isHost hh).1]

/-- Settles O30, by cases on what the completed operation has done. -/
theorem cntWrittenOnlyByAcceptAndStep : Obligations.CntWrittenOnlyByAcceptAndStep := by
  intro i s t h
  cases exec_completed h with
  | accepted ha => simp [ha, (not_micro_of_acceptsStart ha).1]
  | consumed => exact ⟨nofun, fun _ => rfl, fun _ hn => absurd rfl hn⟩
  | finished | baseWritten | lenWritten => exact ⟨nofun, nofun, fun _ _ => rfl⟩
  | quiet v n hh ha => simp [ha, (not_micro_of_isHost hh).1]

/-- Settles O31, by cases on what the completed operation has done. -/
theorem latchesWrittenOnlyByAccept : Obligations.LatchesWrittenOnlyByAccept := by
  intro i s t h
  cases exec_completed h with
  | accepted ha => simp [ha]
  | consumed | finished | baseWritten | lenWritten => exact ⟨nofun, fun _ => ⟨rfl, rfl⟩⟩
  | quiet v n hh ha => simp [ha]

/-- Settles O32, by cases on what the completed operation has done. -/
theorem flagsWrittenOnlyByAcceptAndFinish : Obligations.FlagsWrittenOnlyByAcceptAndFinish := by
  intro i s t h
  cases exec_completed h with
  | accepted ha => simp [ha, (not_micro_of_acceptsStart ha).2]
  | finished => exact ⟨nofun, fun _ => ⟨rfl, rfl⟩, fun _ hn => absurd rfl hn⟩
  | consumed | baseWritten | lenWritten => exact ⟨nofun, nofun, fun _ _ => ⟨rfl, rfl⟩⟩
  | quiet v n hh ha => simp [ha, (not_micro_of_isHost hh).2]

/-- Settles O33, by cases on what the completed operation has done. -/
theorem baseAndLenWrittenOnlyByTheirWrites : Obligations.BaseAndLenWrittenOnlyByTheirWrites := by
  intro i s t h
  cases exec_completed h with
  | accepted | consumed | finished | quiet => exact ⟨fun _ => rfl, fun _ => rfl⟩
  | baseWritten data => exact ⟨fun hn => absurd rfl (hn data), fun _ => rfl⟩
  | lenWritten data => exact ⟨fun _ => rfl, fun hn => absurd rfl (hn data)⟩

/-! ## What no read shows -/

/-- RD_RESULT's RDATA (R85): ACC once DONE, else the next free draw. -/
theorem execRdResult_rdata {s t : State} (h : execRdResult s = .next t) :
    t.rdata = if s.done then accRead s else unspecifiedRead s := by
  unfold execRdResult at h
  split at h <;> cases h <;> simp [*]

/-- Settles O35: RD_RESULT alone looks at one of the four elements, at ACC, and only while DONE = 1, where the two states'
ACC agree. -/
theorem hiddenStateIsNotReadable : Obligations.HiddenStateIsNotReadable := by
  intro s t₁ t₂ i acc cnt lenL baseL hread hacc h₁ h₂
  cases i with
  | rdResult =>
    rw [execRdResult_rdata h₁, execRdResult_rdata h₂]
    cases hd : s.done with
    | false => rfl
    | true => simp [accRead, hacc hd]
  | rdBase | rdLen | rdCtrl | rdStatus | rdRsvd14 | rdRsvd18 | rdRsvd1C => cases h₁; cases h₂; rfl
  | wrBase | wrLen | wrCtrl | wrStatus | wrResult | wrRsvd14 | wrRsvd18 | wrRsvd1C | engAccept | engStep | engFinish =>
    simp at hread

/-! ## The invariant of R35 -/

/-- The computation does not depend on the flags, the host's registers, memory or the events to come. -/
theorem ComputationInv.frame {s : State} (h : ComputationInv s) (busy done : Bool) (base : Word) (len : Half)
    (mem : Memory) (rdata : Word) (inbox : List Event) (draws : Nat) :
    ComputationInv { s with
      busy := busy, done := done, base := base, len := len, mem := mem, rdata := rdata, inbox := inbox,
      draws := draws } :=
  ⟨h.cnt_le, h.addrs, h.folded, h.in_space⟩

/-- What lies outside the engine may change freely, if memory stays canonical and BASE inside ADDR_W bits. -/
theorem State.Inv.frame {s : State} (h : State.Inv s) {base : Word} {mem : Memory} (len : Half) (rdata : Word)
    (inbox : List Event) (draws : Nat) (hbase : base.toNat < 2 ^ s.plat.addrW) (hmem : Memory.wf mem = true) :
    State.Inv { s with
      base := base, len := len, mem := mem, rdata := rdata, inbox := inbox, draws := draws } where
  plat_wf := h.plat_wf
  mem_wf := hmem
  base_field := hbase
  latch_field := h.latch_field
  one_phase := h.one_phase
  running hb := (h.running hb).frame ..
  finished hd := ⟨(h.finished hd).1.frame .., (h.finished hd).2⟩

theorem popEvent_inv {s : State} (h : State.Inv s) : State.Inv (popEvent s) :=
  h.frame s.len s.rdata s.inbox.tail s.draws h.base_field h.mem_wf

theorem storeByte_inv {s : State} (a : Nat) (b : Byte) (h : State.Inv s) : State.Inv (storeByte a b s) :=
  h.frame s.len s.rdata s.inbox s.draws h.base_field (Memory.write_wf a b h.mem_wf)

/-- A computation that has just been accepted has read nothing (R141). -/
theorem latch_computationInv {s : State} (h : bufferWraps s = false) : ComputationInv (latch s.base s.len s) where
  cnt_le := Nat.zero_le _
  addrs := rfl
  folded := rfl
  in_space := (bufferWraps_false_iff s).1 h

theorem latch_inv {s : State} (h : State.Inv s) (hw : bufferWraps s = false) :
    State.Inv (latch s.base s.len s) where
  plat_wf := h.plat_wf
  mem_wf := h.mem_wf
  base_field := h.base_field
  latch_field := h.base_field
  one_phase := nofun
  running _ := latch_computationInv hw
  finished := nofun

/-- CNT is below LEN_L where bytes are left, so it counts one more without wrapping. -/
theorem ComputationInv.cnt_succ {s : State} (h : ComputationInv s) (hc : s.cnt ≠ s.lenL) :
    s.cnt.toNat < s.lenL.toNat ∧ (s.cnt + 1#16).toNat = s.cnt.toNat + 1 := by
  have hlt : s.cnt.toNat < s.lenL.toNat := Nat.lt_of_le_of_ne h.cnt_le fun he => hc (BitVec.eq_of_toNat_eq he)
  exact ⟨hlt, by bv_omega⟩

/-- One more byte consumed: one more read, at BASE_L + CNT, folded last (R53, R143). -/
theorem consume_computationInv {s : State} (b : Byte) (h : ComputationInv s) (hc : s.cnt ≠ s.lenL) :
    ComputationInv (consume b s) := by
  obtain ⟨hlt, hsucc⟩ := h.cnt_succ hc
  refine ⟨?_, ?_, ?_, h.in_space⟩
  · rw [consume_cnt, hsucc]
    exact hlt
  · simp [hsucc, readAddrs_append_last, h.addrs, bufferAddr]
  · simp [fold_append, ← h.folded]

theorem consume_inv {s : State} (b : Byte) (h : State.Inv s) (hb : s.busy = true) (hc : s.cnt ≠ s.lenL) :
    State.Inv (consume b s) where
  plat_wf := h.plat_wf
  mem_wf := h.mem_wf
  base_field := h.base_field
  latch_field := h.latch_field
  one_phase := h.one_phase
  running _ := consume_computationInv b (h.running hb) hc
  finished hd := absurd ⟨hb, hd⟩ h.one_phase

theorem flagsFinished_inv {s : State} (h : State.Inv s) (hb : s.busy = true) (hc : s.cnt = s.lenL) :
    State.Inv (flagsFinished s) where
  plat_wf := h.plat_wf
  mem_wf := h.mem_wf
  base_field := h.base_field
  latch_field := h.latch_field
  one_phase := nofun
  running := nofun
  finished _ := ⟨(h.running hb).frame .., hc⟩

theorem resetBlock_inv {s : State} (h : State.Inv s) : State.Inv (resetBlock s) where
  plat_wf := h.plat_wf
  mem_wf := h.mem_wf
  base_field := Nat.two_pow_pos _
  latch_field := addrField_lt ..
  one_phase := nofun
  running := nofun
  finished := nofun

/-- Whatever an operation does keeps the invariant. -/
theorem effect_inv {s t : State} (h : State.Inv s) (he : Effect s t) : State.Inv t := by
  cases he with
  | unchanged => exact h
  | answered v => exact h.frame s.len v s.inbox s.draws h.base_field h.mem_wf
  | answeredFree => exact h.frame s.len (unspecifiedRead s) s.inbox (s.draws + 1) h.base_field h.mem_wf
  | baseWritten data => exact h.frame s.len s.rdata s.inbox s.draws (addrField_lt s.plat data) h.mem_wf
  | lenWritten n => exact h.frame n s.rdata s.inbox s.draws h.base_field h.mem_wf
  | accepted _ hw => exact latch_inv h hw
  | consumed hb hc _ => exact consume_inv _ h hb hc
  | ended hb hc => exact flagsFinished_inv h hb hc

/-- Settles O38, by cases on what a step can do. -/
theorem everyStepKeepsTheInvariant : Obligations.EveryStepKeepsTheInvariant := by
  intro s t h hstep
  obtain ⟨-, he⟩ | ⟨_, _, -, he | ⟨a, b, -, -, rfl⟩ | ⟨-, rfl⟩⟩ := step_cases hstep
  · exact effect_inv h he
  · exact effect_inv (popEvent_inv h) he
  · exact storeByte_inv a b (popEvent_inv h)
  · exact resetBlock_inv (popEvent_inv h)

/-! ## Reset -/

/-- Settles O25: BUSY and DONE are 0, so the status word is 0. -/
theorem resetStateValues : Obligations.ResetStateValues := by
  have hstatus : statusWord State.reset = 0#32 := by simp [statusWord_eq, State.reset]
  exact ⟨rfl, rfl, rfl, rfl, ⟨_, rfl, rfl⟩, ⟨_, rfl, hstatus⟩, rfl⟩

/-- Settles O37: the drawn BASE_L is below 2^32, and ADDR_W is 32; no computation is under way or finished. -/
theorem resetMeetsTheInvariant : Obligations.ResetMeetsTheInvariant where
  plat_wf := rfl
  mem_wf := rfl
  base_field := Nat.two_pow_pos _
  latch_field := (Config.freeDraw 2).isLt
  one_phase := nofun
  running := nofun
  finished := nofun

end Sys2Proof.Machine
end

section
/-! The buffer space and the result (20_memory.md R51 to R64): which transaction an event runs, who writes memory, what a
read that is not admitted does to the engine, and how long the result of a computation stands. -/

namespace Sys2Proof.Machine

/-! ## The first pending event -/

/-- A step with an event pending is that event, in the state from whose list it is gone. -/
theorem step_takes {s : State} {e : Event} {es : List Event} (h : s.inbox = e :: es) :
    step s = takeEvent e { s with inbox := es } := by
  simp [step_event h, popEvent, h]

/-- Settles O5: the access is routed to its own key, which decodes to the operation. -/
theorem stepRunsTheDecodedTransaction : Obligations.StepRunsTheDecodedTransaction := by
  intro s key data es i hs hd
  simp [step_takes hs, takeEvent, hostTurn, routeAccess_accessOf, hd]

/-! ## Unfit host accesses -/

theorem routeAccess_outside {p : Platform} {a : HostAccess}
    (h : a.addr + a.bytes ≤ p.regBase ∨ p.regBase + 32 ≤ a.addr) : routeAccess p a = .outside :=
  if_pos h

/-- Where an access that touches the window goes, by its width and its first address (R58). -/
theorem routeAccess_touching {p : Platform} {a : HostAccess} (hlo : p.regBase < a.addr + a.bytes)
    (hhi : a.addr < p.regBase + 32) :
    (a.bytes ≠ 4 → routeAccess p a = .badWidth a.bytes) ∧
    (a.bytes = 4 → a.addr < p.regBase → routeAccess p a = .straddles a.addr) ∧
    (a.bytes = 4 → p.regBase ≤ a.addr →
      routeAccess p a = .reaches (makeKey a.write (BitVec.ofNat 5 (a.addr - p.regBase))) a.data) := by
  have htouch : ¬ (a.addr + a.bytes ≤ p.regBase ∨ p.regBase + Config.windowBytes ≤ a.addr) := by
    simp only [Config.windowBytes]
    omega
  refine ⟨fun hw => ?_, fun hw hb => ?_, fun hw hb => ?_⟩ <;> rw [routeAccess, if_neg htouch]
  · rw [if_pos hw]
  · rw [if_neg (Decidable.not_not.2 hw), if_pos hb]
  · rw [if_neg (Decidable.not_not.2 hw), if_neg (Nat.not_lt.2 hb)]

/-- An offset that is no multiple of 4 has OFF[1:0] ≠ 00, and its key is rejected (R82). -/
theorem decodeHT_misaligned {n : Nat} (h : n % 4 ≠ 0) (w : Bool) (data : Word) :
    decodeHT (makeKey w (BitVec.ofNat 5 n)) data = .rejected (.misaligned (BitVec.ofNat 5 n)) := by
  have hlow : (keyOffset (makeKey w (BitVec.ofNat 5 n))).extractLsb' 0 2 ≠ 0#2 := by
    intro h0
    have := congrArg BitVec.toNat h0
    simp at this
    omega
  simp [decodeHT, decodeKey_misaligned hlow]

/-- Settles O9: each kind of access is routed apart, and a misaligned one is stopped by the decoder. -/
theorem unfitHostAccessesAreRefused : Obligations.UnfitHostAccessesAreRefused := by
  intro s a es hs
  rw [step_takes hs]
  refine ⟨fun hlo hhi => ?_, fun hout => ?_⟩
  · obtain ⟨hwidth, hbelow, hin⟩ := routeAccess_touching hlo hhi
    refine ⟨fun hw => ?_, fun hw hb => ?_, fun hw hb hmis => ?_⟩
    · simp [takeEvent, hostTurn, hwidth hw]
    · simp [takeEvent, hostTurn, hbelow hw hb]
    · simp [takeEvent, hostTurn, hin hw hb, decodeHT_misaligned hmis]
  · simp [takeEvent, hostTurn, routeAccess_outside hout]

/-! ## Who writes memory -/

/-- No operation writes the buffer space, the platform or the list of pending events (R51). -/
theorem Effect.keeps_world {s t : State} (h : Effect s t) : t.mem = s.mem ∧ t.plat = s.plat ∧ t.inbox = s.inbox := by
  cases h with
  | unchanged | answered | answeredFree | baseWritten | lenWritten | accepted | consumed | ended => exact ⟨rfl, rfl, rfl⟩

/-- A step uses up the first pending event, and leaves the platform as it is. -/
theorem step_world {s t : State} (h : step s = .next t) : t.plat = s.plat ∧ t.inbox = s.inbox.tail := by
  obtain ⟨hi, he⟩ | ⟨_, _, -, he | ⟨a, b, -, -, rfl⟩ | ⟨-, rfl⟩⟩ := step_cases h
  · obtain ⟨-, hp, hin⟩ := he.keeps_world
    exact ⟨hp, by simp [hin, hi]⟩
  · exact he.keeps_world.2
  · exact ⟨rfl, rfl⟩
  · exact ⟨rfl, rfl⟩

/-- Settles O28, by cases on what a step can do. -/
theorem noOperationWritesMemory : Obligations.NoOperationWritesMemory := by
  refine ⟨fun i s t h => ?_, fun s t h hstore => ?_⟩
  · obtain ⟨hm, hp, hin⟩ := (exec_effect h).keeps_world
    exact ⟨hm, fun a => by rw [hm], hp, hin⟩
  · obtain ⟨-, he⟩ | ⟨e, es, hi, he | ⟨a, b, rfl, -, -⟩ | ⟨-, rfl⟩⟩ := step_cases h
    · exact he.keeps_world.1
    · exact he.keeps_world.1
    · exact absurd (by simp [hi]) (hstore a b)
    · rfl

/-- Settles O27 by the laws of a store: a read of its address gives its byte, every other address is left alone. -/
theorem storesOfOthersReachTheBuffer : Obligations.StoresOfOthersReachTheBuffer := by
  intro s a b es hs
  rw [step_takes hs]
  refine ⟨fun hin => ⟨Memory.write s.mem a b, ?_, Memory.read_write_same .., ?_, fun hadm => ?_⟩, fun hout => ?_⟩
  · simp [takeEvent, storeTurn, inSpace, hin, storeByte]
  · exact fun x hx => Memory.read_write_other _ _ hx
  · rw [memRead_admitted (s := { s with mem := Memory.write s.mem a b }) hadm]
    exact congrArg some (Memory.read_write_same ..)
  · simp [takeEvent, storeTurn, inSpace, Nat.not_lt.2 hout]

/-! ## Reads -/

/-- Settles O34: a read is a host transaction that does not program the block. -/
theorem readsHaveNoSideEffect : Obligations.ReadsHaveNoSideEffect := by
  intro s i hi
  have hread : ∃ op : HtOp, writesProgram op = false ∧ op.withData 0#32 = i := by
    obtain rfl | rfl | rfl | rfl | rfl | rfl | rfl | rfl := hi
    · exact ⟨.rdBase, rfl, rfl⟩
    · exact ⟨.rdLen, rfl, rfl⟩
    · exact ⟨.rdCtrl, rfl, rfl⟩
    · exact ⟨.rdStatus, rfl, rfl⟩
    · exact ⟨.rdResult, rfl, rfl⟩
    · exact ⟨.rdRsvd14, rfl, rfl⟩
    · exact ⟨.rdRsvd18, rfl, rfl⟩
    · exact ⟨.rdRsvd1C, rfl, rfl⟩
  obtain ⟨op, hop, rfl⟩ := hread
  exact exec_answers hop 0#32 s

/-- RD_RESULT once DONE: ACC, zero-extended (R180). -/
theorem exec_rdResult_done {s : State} (h : s.done = true) :
    exec .rdResult s = .next { s with rdata := BitVec.ofNat 32 s.acc.toNat } := by
  simp [exec, execRdResult, h, reply, accRead, BitVec.ofNat_toNat]

/-! ## The engine on its own -/

/-- The engine is stuck (R56) where bytes are left and the next read is not admitted. -/
theorem engineStuck_iff (s : State) :
    engineStuck s = true ↔ s.busy = true ∧ s.cnt ≠ s.lenL ∧ admits s.plat (bufferAddr s) = false := by
  simp [engineStuck, allConsumed, and_assoc]

/-- ENG_STEP itself faults in a stuck engine. -/
theorem exec_engStep_stuck {s : State} (h : engineStuck s = true) :
    exec .engStep s = .fault (.readNotAdmitted (bufferAddr s)) := by
  obtain ⟨hb, hc, ha⟩ := (engineStuck_iff s).1 h
  simp [exec, execEngStep, hb, allConsumed, hc, memRead_not_admitted ha]

/-- A state that a step leaves as it is stays for any number of steps. -/
theorem runSteps_fixed {s : State} (h : step s = .next s) (k : Nat) : runSteps k s = .next s := by
  induction k with
  | zero => rfl
  | succ k ih => rw [runSteps_succ h, ih]

/-- Settles O8: the stuck engine's turn passes, pending or not. -/
theorem unadmittedReadLeavesEngineStuck : Obligations.UnadmittedReadLeavesEngineStuck := by
  intro s hb hc ha
  have hstuck : engineStuck s = true := (engineStuck_iff s).2 ⟨hb, hc, ha⟩
  refine ⟨exec_engStep_stuck hstuck, fun k hi => ?_, fun es hi => ?_⟩
  · exact runSteps_fixed ((step_empty hi).trans (engineTurn_stuck hstuck)) k
  · exact (step_takes hi).trans (engineTurn_stuck (s := { s with inbox := es }) hstuck)

/-- Settles O53: the START latches LEN_L = 0 with CNT = 0, so the engine's next turn is ENG_FINISH, whatever the platform
admits. -/
theorem zeroLengthReadsNothing : Obligations.ZeroLengthReadsNothing := by
  intro s data hstart hb hi hl
  have hacc : exec (.wrCtrl data) s = .next (latch s.base s.len s) := by
    have hw : bufferWraps s = false := (bufferWraps_false_iff s).2 (.inl hl)
    simp [exec, execWrCtrl, startBit, hstart, hb, accept, hw]
  have hfin : step (latch s.base s.len s) = .next (flagsFinished (latch s.base s.len s)) := by
    rw [step_empty (by simpa using hi)]
    exact engineTurn_finish (by simp) (by simp [hl])
  exact ⟨_, _, hacc, hfin, rfl, rfl, rfl, rfl, exec_rdResult_done rfl⟩

/-! ## How long the result stands -/

/-- EC selects no START. -/
theorem acceptsStart_of_decodeEC {w : BitVec 2} {i : Instr} (h : decodeEC w = .ok i) (s : State) :
    acceptsStart i s = false := by
  unfold decodeEC at h
  split at h <;> cases h <;> rfl

/-- The one host transaction that performs ENG_ACCEPT (R174). -/
theorem acceptsStart_withData {op : HtOp} {data : Word} {s : State} (h : acceptsStart (op.withData data) s = true) :
    op = .wrCtrl ∧ startBit data = true ∧ s.busy = false := by
  cases op with
  | wrCtrl => simpa [HtOp.withData, acceptsStart] using h
  | rdBase | rdLen | rdCtrl | rdStatus | rdResult | rdRsvd14 | rdRsvd18 | rdRsvd1C | wrBase | wrLen | wrStatus
  | wrResult | wrRsvd14 | wrRsvd18 | wrRsvd1C => cases h

/-- `hostTurn_next` with the START kept: the access of an operation that performs ENG_ACCEPT writes START. -/
theorem hostTurn_start {a : HostAccess} {s t : State} (h : hostTurn a s = .next t) :
    t = s ∨ ∃ i : Instr, exec i s = .next t ∧
      (acceptsStart i s = true → isStartAccess s.plat a = true ∧ s.busy = false) := by
  unfold hostTurn at h
  split at h
  · exact .inl (by simpa using h.symm)
  · cases h
  · cases h
  · rename_i key data hr
    obtain ⟨op, hk, hd⟩ | ⟨-, hd⟩ := decodeHT_cases key data <;> rw [hd] at h
    · refine .inr ⟨_, h, fun hacc => ?_⟩
      obtain ⟨rfl, hs, hb⟩ := acceptsStart_withData hacc
      exact ⟨by simp [isStartAccess, hr, key_of_decodeKey hk, hs], hb⟩
    · cases h

/-- An operation that accepts no START keeps DONE, and ACC too where the engine is not running. -/
theorem exec_keeps_result {i : Instr} {s t : State} (h : exec i s = .next t) (hd : s.done = true)
    (hacc : acceptsStart i s = false) : t.done = true ∧ (s.busy = false → t.acc = s.acc) := by
  cases exec_completed h with
  | accepted ha => simp [ha] at hacc
  | consumed =>
    obtain ⟨hb, -⟩ := execEngStep_next h
    exact ⟨hd, fun hn => by simp [hn] at hb⟩
  | finished => exact ⟨rfl, fun _ => rfl⟩
  | baseWritten | lenWritten | quiet => exact ⟨hd, fun _ => rfl⟩

theorem engineTurn_keeps_result {s t : State} (h : engineTurn s = .next t) (hd : s.done = true) :
    t.done = true ∧ (s.busy = false → t.acc = s.acc) := by
  obtain rfl | ⟨i, hi, hx⟩ := engineTurn_next h
  · exact ⟨hd, fun _ => rfl⟩
  · exact exec_keeps_result hx hd (acceptsStart_of_decodeEC hi s)

/-- What a step can do to a result: reset clears it, a host's START begins the next computation, and everything else lets
it stand (R64). -/
theorem step_from_done {s t : State} (h : step s = .next t) (hd : s.done = true) :
    s.inbox.head? = some .reset ∨
    (∃ a, s.inbox.head? = some (.host a) ∧ isStartAccess s.plat a = true ∧ s.busy = false ∧ t.busy = true) ∨
    (t.done = true ∧ (s.busy = false → t.acc = s.acc)) := by
  cases hi : s.inbox with
  | nil => exact .inr (.inr (engineTurn_keeps_result (step_empty hi ▸ h) hd))
  | cons e es =>
    rw [step_event hi] at h
    cases e with
    | reset => exact .inl rfl
    | engine => exact .inr (.inr (engineTurn_keeps_result (s := popEvent s) h hd))
    | store a b =>
      simp only [takeEvent, storeTurn] at h
      split at h <;> cases h
      exact .inr (.inr ⟨hd, fun _ => rfl⟩)
    | host a =>
      obtain rfl | ⟨i, hx, hstart⟩ := hostTurn_start h
      · exact .inr (.inr ⟨hd, fun _ => rfl⟩)
      · cases hacc : acceptsStart i (popEvent s) with
        | false => exact .inr (.inr (exec_keeps_result (s := popEvent s) hx hd hacc))
        | true =>
          obtain ⟨hsa, hb⟩ := hstart hacc
          obtain ⟨hbt, -⟩ := (flagsWrittenOnlyByAcceptAndFinish i _ _ hx).1 hacc
          exact .inr (.inl ⟨a, rfl, hsa, hb, hbt⟩)

/-- The event is neither reset nor a host's START, so a result stands through it (R64). -/
def Event.LeavesResult (p : Platform) (e : Event) : Prop :=
  e ≠ .reset ∧ ∀ a, e = .host a → isStartAccess p a = false

/-- One step of R64: from a result, an event that leaves it. -/
theorem step_keeps_result {s t : State} (h : step s = .next t) (hinv : State.Inv s) (hd : s.done = true)
    (he : ∀ e, s.inbox.head? = some e → e.LeavesResult s.plat) : t.done = true ∧ t.acc = s.acc := by
  have hb : s.busy = false := Bool.eq_false_iff.2 fun hb => hinv.one_phase ⟨hb, hd⟩
  obtain hr | ⟨a, ha, hsa, -⟩ | ⟨hdt, hacc⟩ := step_from_done h hd
  · exact absurd rfl (he _ hr).1
  · simp [(he _ ha).2 a rfl] at hsa
  · exact ⟨hdt, hacc hb⟩

/-- A run of one step more is a step and a run. -/
theorem runSteps_succ_next {k : Nat} {s t : State} (h : runSteps (k + 1) s = .next t) :
    ∃ u, step s = .next u ∧ runSteps k u = .next t := by
  rw [runSteps] at h
  split at h
  · exact ⟨_, ‹_›, h⟩
  · cases h
  · cases h

theorem mem_take_succ_of_mem_take_tail {k : Nat} {e : Event} {es : List Event} (h : e ∈ es.tail.take k) :
    e ∈ es.take (k + 1) := by
  cases es with
  | nil => simp at h
  | cons a es => exact List.mem_cons_of_mem a h

/-- R64 for a run, by induction on its steps: the invariant, the result and the platform carry over to the next state, whose
first `k` events are among the first `k + 1` of this one. -/
theorem runSteps_keeps_result {k : Nat} {s t : State} (h : runSteps k s = .next t) (hinv : State.Inv s)
    (hd : s.done = true) (he : ∀ e, e ∈ s.inbox.take k → e.LeavesResult s.plat) :
    t.done = true ∧ t.acc = s.acc := by
  induction k generalizing s with
  | zero =>
    cases h
    exact ⟨hd, rfl⟩
  | succ k ih =>
    obtain ⟨u, hstep, hrun⟩ := runSteps_succ_next h
    obtain ⟨hplat, hinbox⟩ := step_world hstep
    have hhead : ∀ e, s.inbox.head? = some e → e.LeavesResult s.plat := fun e hh =>
      he e (List.mem_of_head? (by simpa [List.head?_take] using hh))
    obtain ⟨hdu, haccu⟩ := step_keeps_result hstep hinv hd hhead
    have htail : ∀ e, e ∈ u.inbox.take k → e.LeavesResult u.plat := by
      intro e hmem
      rw [hplat]
      rw [hinbox] at hmem
      exact he e (mem_take_succ_of_mem_take_tail hmem)
    obtain ⟨hdt, hacct⟩ := ih hrun (everyStepKeepsTheInvariant _ _ hinv hstep) hdu htail
    exact ⟨hdt, hacct.trans haccu⟩

/-- Settles O40: by what a step can do to a result, and by induction on the steps of a run. -/
theorem resultStandsUntilTheNextStart : Obligations.ResultStandsUntilTheNextStart := by
  refine ⟨fun s t hd h hdt => ?_, fun k s t hinv hd h he => ?_⟩
  · obtain hr | hs | ⟨hkept, -⟩ := step_from_done h hd
    · exact .inl hr
    · exact .inr hs
    · simp [hkept] at hdt
  · obtain ⟨hdt, hacc⟩ := runSteps_keeps_result h hinv hd he
    exact ⟨hdt, hacc, hacc ▸ exec_rdResult_done hdt⟩

end Sys2Proof.Machine
end

section
/-! The two encodings and the notation over them (30_encoding.md R80 to R91): decoding and encoding undo each other, EC
selects the engine's micro-operation and its turn runs it, and the lines of assembly are the words of the table. -/

namespace Sys2Proof.Machine

/-! ## Format HT -/

/-- A register transaction is encoded under its own key. The data word it is encoded with is what it carries: all of a
write's, and none of a read's (R81). -/
theorem encode_withData (op : HtOp) (data : Word) :
    ∃ d, encode (op.withData data) = .ht op.key d ∧ (op.key.getLsbD 5 = true → d = data) := by
  cases op with
  | rdBase | rdLen | rdCtrl | rdStatus | rdResult | rdRsvd14 | rdRsvd18 | rdRsvd1C =>
    exact ⟨0#32, rfl, nofun⟩
  | wrBase | wrLen | wrCtrl | wrStatus | wrResult | wrRsvd14 | wrRsvd18 | wrRsvd1C =>
    exact ⟨data, rfl, fun _ => rfl⟩

/-- Only the key of an operation decodes to it. -/
theorem decodeHT_ok {key : BitVec 6} {data : Word} {i : Instr} (h : decodeHT key data = .ok i) :
    ∃ op : HtOp, key = op.key ∧ i = op.withData data := by
  obtain ⟨op, hk, hd⟩ | ⟨-, hd⟩ := decodeHT_cases key data <;> rw [hd] at h <;> cases h
  exact ⟨op, key_of_decodeKey hk, rfl⟩

/-- Bits 1:0 of a key are OFF[1:0], and where they are not 00 no operation is decoded (R82). -/
theorem decodeHT_rejected {key : BitVec 6} (h : key.extractLsb' 0 2 ≠ 0#2) (data : Word) :
    decodeHT key data = .rejected (.misaligned (keyOffset key)) := by
  have hlow : (keyOffset key).extractLsb' 0 2 = key.extractLsb' 0 2 := by
    ext i hi
    simp [keyOffset]
  rw [decodeHT, decodeKey_misaligned (hlow ▸ h)]

/-- Settles O1: the keys listed are the operations' own, and a misaligned key is stopped by its low bits. -/
theorem htKeysDecodeAsListed : Obligations.HtKeysDecodeAsListed := by
  intro data
  exact ⟨⟨decodeHT_key .rdBase data, decodeHT_key .wrBase data, decodeHT_key .rdLen data, decodeHT_key .wrLen data,
    decodeHT_key .rdCtrl data, decodeHT_key .wrCtrl data, decodeHT_key .rdStatus data, decodeHT_key .wrStatus data,
    decodeHT_key .rdResult data, decodeHT_key .wrResult data, decodeHT_key .rdRsvd14 data, decodeHT_key .wrRsvd14 data,
    decodeHT_key .rdRsvd18 data, decodeHT_key .wrRsvd18 data, decodeHT_key .rdRsvd1C data, decodeHT_key .wrRsvd1C data⟩,
    fun key h => decodeHT_rejected h data⟩

/-! ## Format EC -/

/-- The two EC words that select a micro-operation (R83). -/
theorem decodeEC_ok {w : BitVec 2} {i : Instr} (h : decodeEC w = .ok i) :
    (w = 0b10#2 ∧ i = .engStep) ∨ (w = 0b11#2 ∧ i = .engFinish) := by
  have words : ∀ w : BitVec 2, w = 0b00#2 ∨ w = 0b01#2 ∨ w = 0b10#2 ∨ w = 0b11#2 := by decide
  obtain rfl | rfl | rfl | rfl := words w
  · cases h
  · cases h
  · cases h; exact .inl ⟨rfl, rfl⟩
  · cases h; exact .inr ⟨rfl, rfl⟩

/-- EC has BUSY above EQ (R83). -/
theorem ecWord_bits (s : State) : (ecWord s).getLsbD 1 = s.busy ∧ (ecWord s).getLsbD 0 = allConsumed s := by
  simp only [ecWord, BitVec.getLsbD_append]
  simp

/-- Settles O3: the bits of EC, and what the decoder answers for each value of BUSY and EQ. -/
theorem engineConditionSelectsMicroOp : Obligations.EngineConditionSelectsMicroOp :=
  fun s => ⟨ecWord_bits s, ecWord_idle, ecWord_step, ecWord_finish⟩

/-- A turn of an engine that has an enabled step runs it. -/
theorem engineTurn_selected {s : State} {i : Instr} (h : decodeEC (ecWord s) = .ok i) (hs : engineStuck s = false) :
    engineTurn s = exec i s := by
  cases hb : s.busy with
  | false => simp [ecWord_idle hb] at h
  | true => simp [engineTurn, hb, hs, h]

/-- Settles O6: the engine's turn, in the state itself or in the one from whose list of events it is gone. -/
theorem stepRunsTheSelectedMicroOp : Obligations.StepRunsTheSelectedMicroOp := by
  intro s i h hs
  refine ⟨fun hi => ?_, fun es hi => ?_⟩
  · exact (step_empty hi).trans (engineTurn_selected h hs)
  · exact (step_takes hi).trans (engineTurn_selected (s := { s with inbox := es }) h hs)

/-! ## Both formats -/

/-- What a decoder can give is decoded from its own encoding. -/
theorem decode_encode {i : Instr} (h : i.wellFormed = true) : decode (encode i) = .ok i := by
  cases i with
  | engAccept => cases h
  | engStep | engFinish => rfl
  | _ => simp [encode, decode, decodeHT_key, HtOp.withData]

/-- Settles O2: the one direction operation by operation, the other by the key or condition that the word must be. -/
theorem decodeAndEncodeAgree : Obligations.DecodeAndEncodeAgree := by
  refine ⟨fun i => decode_encode, fun key data i h => ⟨decode_wellFormed h, ?_⟩,
    fun w i h => ⟨decode_wellFormed h, ?_⟩, decodeHT_key .wrCtrl 1#32⟩
  · obtain ⟨op, rfl, rfl⟩ := decodeHT_ok h
    exact encode_withData op data
  · obtain ⟨rfl, rfl⟩ | ⟨rfl, rfl⟩ := decodeEC_ok h <;> rfl

/-! ## The assembler's notation -/

/-- Settles O4: a line's key is W over the register's offset, and the expansions are those of R91. -/
theorem assemblyEncodesAsTransactions : Obligations.AssemblyEncodesAsTransactions :=
  ⟨⟨rfl, rfl, rfl, rfl, rfl, rfl, rfl, rfl⟩, fun _ => ⟨rfl, rfl, rfl, rfl, rfl, rfl, rfl, rfl⟩, rfl, rfl,
    fun _ => rfl, fun _ _ _ => rfl⟩

end Sys2Proof.Machine
end

section
/-! The CRC's functions (40_lut_and_step.md R110 to R123): the table is what the bit-level algorithm generates, the
table step is the bit-serial step, both are linear and lose nothing, and what that says of crc16. -/

namespace Sys2Proof.Machine

/-! ## BITSTEP -/

/-- The polynomial where the bit selects it: BITSTEP's second term (R110). -/
def polyTerm (b : Bool) : Half := if b then Config.polyR else 0#16

theorem bitStep_eq (r : Half) : bitStep r = r >>> 1 ^^^ polyTerm (r.getLsbD 0) := rfl

theorem polyTerm_xor (a b : Bool) : polyTerm (a ^^ b) = polyTerm a ^^^ polyTerm b := by
  cases a <;> cases b <;> rfl

/-- The polynomial's bit 15 is set, so the term shows the bit that selected it (R117). -/
theorem polyTerm_bit15 (b : Bool) : (polyTerm b).getLsbD 15 = b := by
  cases b <;> rfl

/-- BITSTEP is linear, as both of its terms are (R115). -/
theorem bitStep_xor (x y : Half) : bitStep (x ^^^ y) = bitStep x ^^^ bitStep y := by
  simp only [bitStep_eq, BitVec.ushiftRight_xor_distrib, BitVec.getLsbD_xor, polyTerm_xor]
  ac_rfl

/-- The shift clears bit 15, so the bit shifted out is kept there (R117). -/
theorem bitStep_bit15 (r : Half) : (bitStep r).getLsbD 15 = r.getLsbD 0 := by
  rw [bitStep_eq, BitVec.getLsbD_xor, polyTerm_bit15, BitVec.getLsbD_ushiftRight, BitVec.getLsbD_of_ge r 16 (by omega),
    Bool.false_xor]

/-- A bit 0 that is clear is only shifted out. -/
theorem bitStep_of_bit0_clear {r : Half} (h : r.getLsbD 0 = false) : bitStep r = r >>> 1 := by
  rw [bitStep_eq, h, polyTerm, if_neg Bool.false_ne_true, BitVec.xor_zero]

/-- Bit 0 is recovered from bit 15, and then the rest from the shift (R117). -/
theorem bitStep_injective : Function.Injective bitStep := by
  intro x y h
  have hbit0 : x.getLsbD 0 = y.getLsbD 0 := by rw [← bitStep_bit15, h, bitStep_bit15]
  have hshift : x >>> 1 = y >>> 1 := by
    rw [bitStep_eq, bitStep_eq, hbit0] at h
    exact (BitVec.xor_left_inj _).1 h
  refine BitVec.eq_of_getLsbD_eq fun i _ => ?_
  cases i with
  | zero => exact hbit0
  | succ i => simpa [Nat.add_comm] using congrArg (·.getLsbD i) hshift

/-- BITSTEP run backwards (R117): bit 15 says whether the polynomial was added, and is the bit that was shifted out. -/
def bitUnstep (r : Half) : Half :=
  (r ^^^ polyTerm (r.getLsbD 15)) <<< 1 ^^^ (BitVec.ofBool (r.getLsbD 15)).setWidth 16

theorem bitUnstep_bit0 (r : Half) : (bitUnstep r).getLsbD 0 = r.getLsbD 15 := by
  rw [bitUnstep, BitVec.getLsbD_xor, BitVec.getLsbD_shiftLeft, BitVec.getLsbD_setWidth]
  cases r.getLsbD 15 <;> rfl

/-- A clear bit 15 is all that a shift by one to the left loses. -/
theorem shiftLeft_one_ushiftRight_one {x : Half} (h : x.getLsbD 15 = false) : x <<< 1 >>> 1 = x := by
  refine BitVec.eq_of_getLsbD_eq fun i hi => ?_
  rw [BitVec.getLsbD_ushiftRight, BitVec.getLsbD_shiftLeft]
  obtain hlt | rfl : 1 + i < 16 ∨ i = 15 := by omega
  · simp [hlt]
  · exact h.symm

/-- Taking the polynomial off clears bit 15, so the shift can be undone. -/
theorem bitUnstep_shift (r : Half) : bitUnstep r >>> 1 = r ^^^ polyTerm (r.getLsbD 15) := by
  have htop : (r ^^^ polyTerm (r.getLsbD 15)).getLsbD 15 = false := by
    rw [BitVec.getLsbD_xor, polyTerm_bit15, Bool.xor_self]
  have hlow : (BitVec.ofBool (r.getLsbD 15)).setWidth 16 >>> 1 = 0#16 := by cases r.getLsbD 15 <;> rfl
  rw [bitUnstep, BitVec.ushiftRight_xor_distrib, hlow, BitVec.xor_zero, shiftLeft_one_ushiftRight_one htop]

theorem bitStep_bitUnstep (r : Half) : bitStep (bitUnstep r) = r := by
  rw [bitStep_eq, bitUnstep_bit0, bitUnstep_shift, BitVec.xor_assoc, BitVec.xor_self, BitVec.xor_zero]

theorem bitSteps_xor (k : Nat) (x y : Half) : bitSteps k (x ^^^ y) = bitSteps k x ^^^ bitSteps k y := by
  induction k generalizing x y with
  | zero => rfl
  | succ k ih => simp only [bitSteps_succ, bitStep_xor, ih]

theorem bitSteps_injective (k : Nat) : Function.Injective (bitSteps k) := by
  induction k with
  | zero => exact fun _ _ h => h
  | succ k ih => exact ih.comp bitStep_injective

theorem bitSteps_surjective (k : Nat) : Function.Surjective (bitSteps k) := by
  induction k with
  | zero => exact fun r => ⟨r, rfl⟩
  | succ k ih => exact ih.comp fun r => ⟨bitUnstep r, bitStep_bitUnstep r⟩

/-- While the low bits are clear, the steps only shift (R115). -/
theorem bitSteps_of_low_clear {k : Nat} {r : Half} (h : ∀ i < k, r.getLsbD i = false) : bitSteps k r = r >>> k := by
  induction k generalizing r with
  | zero => simp
  | succ k ih =>
    have hshifted : ∀ i < k, (r >>> 1).getLsbD i = false := fun i hi => by simpa using h (1 + i) (by omega)
    rw [bitSteps_succ, bitStep_of_bit0_clear (h 0 k.succ_pos), ih hshifted, ← BitVec.shiftRight_add, Nat.add_comm]

/-! ## The table -/

/-- The ROM is the generated table (R110, R123), entry by entry. -/
theorem T_eq_bitStep8 : ∀ i : Byte, T i = bitStep8 (i.setWidth 16) := by decide +kernel

@[simp] theorem T_zero : T 0#8 = 0#16 := rfl

theorem T_xor (i j : Byte) : T (i ^^^ j) = T i ^^^ T j := by
  simp only [T_eq_bitStep8, bitStep8, BitVec.setWidth_xor, bitSteps_xor]

theorem zext16_injective : Function.Injective (fun b : Byte => b.setWidth 16) := by
  intro i j h
  simpa using congrArg (BitVec.setWidth 8) h

theorem T_injective : Function.Injective T := by
  intro i j h
  rw [T_eq_bitStep8, T_eq_bitStep8] at h
  exact zext16_injective (bitSteps_injective 8 h)

/-- Settles O41: BITSTEP is defined so, and the table is compared with the bit-level algorithm entry by entry. -/
theorem romIsTheGeneratedTable : Obligations.RomIsTheGeneratedTable :=
  ⟨fun _ => rfl, T_eq_bitStep8⟩

/-- Settles O42: the bit-level steps that generate the table are linear and injective, and so is the table. -/
theorem tableIsLinearAndInjective : Obligations.TableIsLinearAndInjective :=
  ⟨T_zero, rfl, rfl, fun _ _ h => T_injective h, fun _ => T_injective.eq_iff' T_zero, T_xor⟩

/-! ## CRC_STEP -/

/-- On a 16-bit value, `zext_16(acc[15:8])` is `acc >> 8` (R113). -/
theorem shiftedTerm_eq (acc : Half) : shiftedTerm acc = acc >>> 8 := by
  refine BitVec.eq_of_toNat_eq ?_
  simp only [shiftedTerm, BitVec.toNat_setWidth, BitVec.extractLsb'_toNat, BitVec.toNat_ushiftRight]
  omega

theorem getLsbD_shiftedTerm (acc : Half) (i : Nat) : (shiftedTerm acc).getLsbD i = acc.getLsbD (8 + i) := by
  rw [shiftedTerm_eq, BitVec.getLsbD_ushiftRight]

/-- The shifted term lies in the low byte. -/
theorem shiftedTerm_low (acc : Half) : (shiftedTerm acc).extractLsb' 0 8 = acc.extractLsb' 8 8 := by
  ext i hi
  simp [getLsbD_shiftedTerm]

theorem shiftedTerm_high (acc : Half) : (shiftedTerm acc).extractLsb' 8 8 = 0#8 := by
  ext i hi
  simp [shiftedTerm]

/-- A second shift leaves nothing. -/
theorem shiftedTerm_shiftedTerm (acc : Half) : shiftedTerm (shiftedTerm acc) = 0#16 := by
  rw [shiftedTerm, shiftedTerm_high]
  rfl

/-- The accumulator is its high byte above its low byte. -/
theorem acc_split (acc : Half) : acc = shiftedTerm acc <<< 8 ^^^ (acc.extractLsb' 0 8).setWidth 16 := by
  refine BitVec.eq_of_getLsbD_eq fun i hi => ?_
  rw [BitVec.getLsbD_xor, BitVec.getLsbD_shiftLeft, getLsbD_shiftedTerm]
  by_cases h : i < 8
  · simp [h, hi]
  · simp [h, hi, Nat.add_sub_cancel' (Nat.le_of_not_lt h)]

/-- The high byte alone passes through 8 steps as a shift (R115). -/
theorem bitStep8_high_byte (acc : Half) : bitStep8 (shiftedTerm acc <<< 8) = shiftedTerm acc := by
  have hlow : ∀ i < 8, (shiftedTerm acc <<< 8).getLsbD i = false := fun i hi => by simp [hi]
  rw [bitStep8, bitSteps_of_low_clear hlow]
  refine BitVec.eq_of_toNat_eq ?_
  simp only [shiftedTerm_eq, BitVec.toNat_ushiftRight, BitVec.toNat_shiftLeft]
  omega

/-- CRC_STEP is BITSTEP^8 of the byte added to the low end of the accumulator (R115). -/
theorem crcStep_eq_bitStep8 (acc : Half) (b : Byte) : crcStep acc b = bitStep8 (acc ^^^ b.setWidth 16) := by
  have hsplit : acc ^^^ b.setWidth 16 = shiftedTerm acc <<< 8 ^^^ (tableIndex acc b).setWidth 16 := by
    rw [tableIndex, BitVec.setWidth_xor, ← BitVec.xor_assoc, ← acc_split]
  calc crcStep acc b
      = bitStep8 (shiftedTerm acc <<< 8) ^^^ bitStep8 ((tableIndex acc b).setWidth 16) := by
        rw [bitStep8_high_byte, ← T_eq_bitStep8, crcStep, BitVec.xor_comm]
    _ = bitStep8 (acc ^^^ b.setWidth 16) := by rw [hsplit]; exact (bitSteps_xor ..).symm

/-- A byte equal to the accumulator's low byte selects T[0] = 0, so the step only shifts (R113, R119). -/
theorem crcStep_low_byte (acc : Half) : crcStep acc (acc.extractLsb' 0 8) = shiftedTerm acc := by
  simp [crcStep, tableIndex]

@[simp] theorem crcStep_zero : crcStep 0#16 0#8 = 0#16 := rfl

theorem crcStep_xor (x y : Half) (b c : Byte) : crcStep (x ^^^ y) (b ^^^ c) = crcStep x b ^^^ crcStep y c := by
  simp only [crcStep, tableIndex_xor, T_xor, shiftedTerm_xor]
  ac_rfl

theorem crcStep_injective_acc (b : Byte) : Function.Injective (crcStep · b) := by
  intro x y h
  simp only [crcStep_eq_bitStep8] at h
  exact (BitVec.xor_left_inj _).1 (bitSteps_injective 8 h)

theorem crcStep_injective_byte (acc : Half) : Function.Injective (crcStep acc) := by
  intro b c h
  rw [crcStep_eq_bitStep8, crcStep_eq_bitStep8] at h
  exact zext16_injective ((BitVec.xor_right_inj _).1 (bitSteps_injective 8 h))

/-- Settles O43: by the step's formula, whose shifted term lies in the low byte. -/
theorem crcStepFormulaAndCorners : Obligations.CrcStepFormulaAndCorners := by
  refine ⟨fun acc b => ?_, crcStep_zero, ?_, fun acc => ?_, fun acc b => ?_, rfl⟩
  · rw [crcStep, shiftedTerm_eq, tableIndex]
  · rintro acc _ rfl
    exact crcStep_low_byte acc
  · simp [crcStep, tableIndex, shiftedTerm]
  · rw [crcStep, BitVec.extractLsb'_xor, shiftedTerm_high, BitVec.xor_zero, tableIndex]

/-- Settles O44, by splitting `acc ^ zext_16(b)` into the index and the high byte (R115). -/
theorem tableStepIsBitSerial : Obligations.TableStepIsBitSerial := crcStep_eq_bitStep8

/-- The zero step is BITSTEP^8 of the accumulator alone (R117). -/
theorem crcStep_zero_byte (acc : Half) : crcStep acc 0#8 = bitStep8 acc := by
  rw [crcStep_eq_bitStep8, BitVec.setWidth_zero, BitVec.xor_zero]

theorem crcStep_zero_byte_surjective (r : Half) : ∃ acc, crcStep acc 0#8 = r := by
  obtain ⟨acc, hacc⟩ := bitSteps_surjective 8 r
  exact ⟨acc, (crcStep_zero_byte acc).trans hacc⟩

/-- Settles O46: the steps are injective by their bit-serial form, and the zero step is onto: BITSTEP can be undone. -/
theorem zeroStepIsBijective : Obligations.ZeroStepIsBijective :=
  ⟨fun _ _ h => crcStep_injective_acc 0#8 h, crcStep_zero_byte_surjective, crcStep_zero,
    fun acc _ _ h => crcStep_injective_byte acc h⟩

/-! ## FOLD and crc16 -/

theorem fold_xor {bs cs : List Byte} (h : bs.length = cs.length) (x y : Half) :
    fold (x ^^^ y) (List.zipWith (· ^^^ ·) bs cs) = fold x bs ^^^ fold y cs := by
  induction bs generalizing cs x y with
  | nil =>
    cases cs with
    | nil => rfl
    | cons => cases h
  | cons b bs ih =>
    cases cs with
    | nil => cases h
    | cons c cs =>
      rw [List.zipWith_cons_cons, fold_cons, crcStep_xor, ih (Nat.succ.inj h), fold_cons, fold_cons]

/-- Equal bytes keep different accumulators apart (R122). -/
theorem fold_injective (bs : List Byte) : Function.Injective (fold · bs) := by
  induction bs with
  | nil => exact fun _ _ h => h
  | cons b bs ih => exact ih.comp (crcStep_injective_acc b)

theorem fold_zeros (n : Nat) : fold 0#16 (List.replicate n 0#8) = 0#16 := by
  induction n with
  | zero => rfl
  | succ n ih => rw [List.replicate_succ, fold_cons, crcStep_zero, ih]

/-- The accumulator's own two bytes, low byte first, shift it out (R119). -/
theorem fold_own_bytes (c : Half) : fold c [c.extractLsb' 0 8, c.extractLsb' 8 8] = 0#16 := by
  rw [fold_cons, crcStep_low_byte, ← shiftedTerm_low, fold_cons, crcStep_low_byte, fold_nil, shiftedTerm_shiftedTerm]

theorem crc16_singleton (b : Byte) : crc16 [b] = T (0xFF#8 ^^^ b) ^^^ 0x00FF#16 := rfl

/-- Settles O45: each part of the step is linear, and FOLD by induction on the two sequences. -/
theorem crcIsLinear : Obligations.CrcIsLinear := ⟨crcStep_xor, fun x y _ _ h => fold_xor h x y⟩

/-- Settles O47: the initial value's low byte is XORed into the index and its high byte stays. -/
theorem oneByteCrcExposesTheTable : Obligations.OneByteCrcExposesTheTable := by
  refine ⟨crc16_singleton, fun i => ?_⟩
  have hindex : 0xFF#8 ^^^ (i ^^^ 0xFF#8) = i := by rw [BitVec.xor_comm i, ← BitVec.xor_assoc]; simp
  rw [crc16_singleton, hindex, BitVec.xor_assoc]
  simp

/-- Settles O48: the two appended bytes are the accumulator's own. -/
theorem appendedCrcGivesZero : Obligations.AppendedCrcGivesZero := by
  refine ⟨fun d => ?_, by decide +kernel⟩
  rw [crc16, fold_append]
  exact fold_own_bytes (crc16 d)

/-- Settles O49: zeros take the accumulator 0 to 0, and FOLD is injective, so they take 0xFFFF elsewhere. -/
theorem allZeroBuffersAreDetected : Obligations.AllZeroBuffersAreDetected := by
  refine ⟨fun n _ h => ?_, fold_zeros, by decide +kernel, by decide +kernel, by decide +kernel⟩
  have hinit : Config.init = 0#16 := fold_injective _ (h.trans (fold_zeros n).symm)
  exact absurd hinit (by decide)

/-- Settles O50: the step at the changed byte is injective in the byte, and the bytes after it keep the two apart. -/
theorem oneByteChangeIsDetected : Obligations.OneByteChangeIsDetected := by
  intro pre post b c hbc h
  rw [crc16, crc16, fold_append, fold_append, fold_cons, fold_cons] at h
  exact hbc (crcStep_injective_byte _ (fold_injective post h))

/-- Settles O51, by evaluating the seven vectors. -/
theorem crcVectorsOfTheSpec : Obligations.CrcVectorsOfTheSpec :=
  ⟨rfl, by decide +kernel⟩

end Sys2Proof.Machine
end

section
/-! The engine and its sequencer (41_engine_sequencer.md R140 to R146): what each micro-operation does, how the phases
change, what a computation left to itself yields, and what a result depends on under every schedule. -/

namespace Sys2Proof.Machine

/-! ## The micro-operations -/

theorem exec_engAccept_accepted {s : State} (hb : s.busy = false) (hw : bufferWraps s = false) :
    exec .engAccept s = .next (latch s.base s.len s) := by
  simp [exec, execEngAccept, hb, accept, hw]

/-- A START written while BUSY = 0 performs ENG_ACCEPT (R174). -/
theorem exec_wrCtrl_accepted {s : State} {data : Word} (hstart : startBit data = true) (hb : s.busy = false)
    (hw : bufferWraps s = false) : exec (.wrCtrl data) s = .next (latch s.base s.len s) := by
  simp [exec, execWrCtrl, hstart, hb, accept, hw]

theorem exec_engStep_admitted {s : State} (hb : s.busy = true) (hc : s.cnt ≠ s.lenL)
    (ha : admits s.plat (bufferAddr s) = true) :
    exec .engStep s = .next (consume (Memory.read s.mem (bufferAddr s)) s) := by
  simp [exec, execEngStep, hb, allConsumed, hc, memRead_admitted ha]

theorem exec_engFinish_consumed {s : State} (hb : s.busy = true) (hc : s.cnt = s.lenL) :
    exec .engFinish s = .next (flagsFinished s) := by
  simp [exec, execEngFinish, hb, allConsumed, hc]

/-- The buffer passes the top of the buffer space (R55). -/
theorem bufferWraps_of_lt {s : State} (hl : s.len ≠ 0#16) (h : 2 ^ s.plat.addrW < s.base.toNat + s.len.toNat) :
    bufferWraps s = true := by
  simp [bufferWraps, hl, h]

/-- Settles O22: BUSY and the wrap of the buffer decide the answer, and CNT = 0 meets LEN_L where LEN = 0 alone. -/
theorem acceptLatchesAndInitialises : Obligations.AcceptLatchesAndInitialises := by
  refine ⟨fun s hb hfit => ?_, fun s hb hl hwrap => ?_, fun s hb => ?_, fun s t h => ?_⟩
  · exact exec_engAccept_accepted hb ((bufferWraps_false_iff s).2 hfit)
  · simp [exec, execEngAccept, hb, accept, bufferWraps_of_lt hl hwrap]
  · simp [exec, execEngAccept, hb]
  · obtain ⟨-, -, rfl⟩ := execEngAccept_next h
    exact ⟨fun hl => ecWord_finish rfl hl.symm, fun hl => ecWord_step rfl (Ne.symm hl)⟩

/-- Settles O23: by the step formula of R113, and by CNT < LEN_L in a state of the invariant. -/
theorem engStepConsumesOneByte : Obligations.EngStepConsumesOneByte := by
  refine ⟨fun s hb hc ha => ?_, fun s t hinv h => ?_, fun s hreq => ?_⟩
  · rw [exec_engStep_admitted hb hc ha, consume, crcStep, tableIndex, shiftedTerm_eq]
    rfl
  · obtain ⟨hb, hc, -, rfl⟩ := execEngStep_next h
    exact ((hinv.running hb).cnt_succ hc).2
  · obtain hb | hc := hreq
    · simp [exec, execEngStep, hb]
    · simp [exec, execEngStep, allConsumed, hc]

/-- Settles O24: the flags alone change, and RESULT with DONE = 1 is ACC. -/
theorem finishPublishesResult : Obligations.FinishPublishesResult := by
  refine ⟨fun s hb hc => ⟨exec_engFinish_consumed hb hc, exec_rdResult_done rfl⟩, fun s hreq => ?_⟩
  obtain hb | hc := hreq
  · simp [exec, execEngFinish, hb]
  · simp [exec, execEngFinish, allConsumed, hc]

/-! ## The phases -/

/-- `engineTurn_next` for the flags: only ENG_FINISH writes them (R144). -/
theorem engineTurn_flags {s t : State} (h : engineTurn s = .next t) :
    (t.busy = s.busy ∧ t.done = s.done) ∨ (s.busy = true ∧ s.cnt = s.lenL ∧ t = flagsFinished s) := by
  obtain rfl | ⟨i, hi, hx⟩ := engineTurn_next h
  · exact .inl ⟨rfl, rfl⟩
  · obtain ⟨-, rfl⟩ | ⟨-, rfl⟩ := decodeEC_ok hi
    · obtain ⟨-, -, -, rfl⟩ := execEngStep_next hx
      exact .inl ⟨rfl, rfl⟩
    · exact .inr (execEngFinish_next hx)

/-- `hostTurn_next` with the transaction kept: an access that has an effect on the block is the operation of its key. -/
theorem hostTurn_transaction {a : HostAccess} {s t : State} (h : hostTurn a s = .next t) :
    t = s ∨ ∃ (op : HtOp) (data : Word), routeAccess s.plat a = .reaches op.key data ∧
      exec (op.withData data) s = .next t := by
  unfold hostTurn at h
  split at h
  · exact .inl (by simpa using h.symm)
  · cases h
  · cases h
  · rename_i key data hr
    obtain ⟨op, hk, hd⟩ | ⟨-, hd⟩ := decodeHT_cases key data <;> rw [hd] at h
    · exact .inr ⟨op, data, key_of_decodeKey hk ▸ hr, h⟩
    · cases h

/-- Of the host's accesses only one that writes START, and with BUSY = 0, writes the flags (R174). -/
theorem hostTurn_flags {a : HostAccess} {s t : State} (h : hostTurn a s = .next t) :
    (t.busy = s.busy ∧ t.done = s.done) ∨
    (isStartAccess s.plat a = true ∧ s.busy = false ∧ t.busy = true ∧ t.done = false) := by
  obtain rfl | ⟨op, data, hr, hx⟩ := hostTurn_transaction h
  · exact .inl ⟨rfl, rfl⟩
  · obtain ⟨haccepted, -, hkept⟩ := flagsWrittenOnlyByAcceptAndFinish _ s t hx
    cases hacc : acceptsStart (op.withData data) s with
    | false => exact .inl (hkept hacc (not_micro_of_isHost (withData_isHost op data)).2)
    | true =>
      obtain ⟨rfl, hs, hb⟩ := acceptsStart_withData hacc
      exact .inr ⟨by simp [isStartAccess, hr, hs], hb, haccepted hacc⟩

/-- What a step other than reset does to BUSY and DONE, with what brings it about (R26, R27, R140). -/
inductive FlagChange (s t : State) : Prop where
  | kept : t.busy = s.busy → t.done = s.done → FlagChange s t
  | finished : s.busy = true → s.cnt = s.lenL → s.inbox = [] ∨ s.inbox.head? = some .engine →
      t.busy = false → t.done = true → FlagChange s t
  | started (a : HostAccess) : s.inbox.head? = some (.host a) → isStartAccess s.plat a = true → s.busy = false →
      t.busy = true → t.done = false → FlagChange s t

theorem step_flagChange {s t : State} (h : step s = .next t) (hreset : s.inbox.head? ≠ some .reset) :
    FlagChange s t := by
  cases hi : s.inbox with
  | nil =>
    obtain ⟨hb, hd⟩ | ⟨hb, hc, rfl⟩ := engineTurn_flags (step_empty hi ▸ h)
    · exact .kept hb hd
    · exact .finished hb hc (.inl hi) rfl rfl
  | cons e es =>
    rw [step_event hi] at h
    cases e with
    | engine =>
      obtain ⟨hb, hd⟩ | ⟨hb, hc, rfl⟩ := engineTurn_flags (s := popEvent s) h
      · exact .kept hb hd
      · exact .finished hb hc (.inr (by simp [hi])) rfl rfl
    | host a =>
      obtain ⟨hb, hd⟩ | ⟨hsa, hb, hbt, hdt⟩ := hostTurn_flags (s := popEvent s) h
      · exact .kept hb hd
      · exact .started a (by simp [hi]) hsa hb hbt hdt
    | store a b =>
      simp only [takeEvent, storeTurn] at h
      split at h <;> cases h
      exact .kept rfl rfl
    | reset => simp [hi] at hreset

theorem step_reset {s : State} (h : s.inbox.head? = some .reset) : step s = .next (resetBlock (popEvent s)) := by
  obtain ⟨es, hi⟩ := List.head?_eq_some_iff.1 h
  exact step_event hi

/-- BUSY shows whether a phase is RUN (R140). -/
theorem busy_of_phase {s : State} {p : Phase} (h : phase s = some p) : s.busy = decide (p = .run) := by
  unfold phase phaseOf at h
  split at h <;> cases h <;> simp [*]

theorem phase_eq_run {s : State} (hb : s.busy = true) (hd : s.done = false) : phase s = some .run := by
  simp [phase, hb, hd, phaseOf]

theorem phase_eq_result {s : State} (hb : s.busy = false) (hd : s.done = true) : phase s = some .result := by
  simp [phase, hb, hd, phaseOf]

/-- Settles O39, by cases on what the step does to the flags. -/
theorem phasesChangeOnlyAsTheTableSays : Obligations.PhasesChangeOnlyAsTheTableSays := by
  intro s t p hp h
  refine ⟨fun hr => ?_, fun hr => ?_⟩
  · rw [step_reset hr] at h
    cases h
    rfl
  · have hbusy := busy_of_phase hp
    cases step_flagChange h hr with
    | kept hb hd =>
      refine ⟨p, by rwa [phase, hb, hd], by cases p <;> rfl, fun hrun hres => ?_, fun hn hrun => absurd hrun hn⟩
      cases hrun.symm.trans hres
    | finished hb hc hturn hbt hdt =>
      obtain rfl : p = .run := by simpa [hb] using hbusy
      exact ⟨.result, phase_eq_result hbt hdt, rfl, fun _ _ => ⟨hc, hturn⟩, nofun⟩
    | started a ha hsa hb hbt hdt =>
      exact ⟨.run, phase_eq_run hbt hdt, by cases p <;> rfl, fun _ => nofun, fun _ _ => ⟨a, ha, hsa⟩⟩

/-! ## A computation left to itself -/

/-- The record of the `n` reads from `a` on, of bytes as they stand in `m` (R53). -/
def readsOf (m : Memory) (a n : Nat) : List Host.Cell := (readAddrs a n).map fun x => (x, Memory.read m x)

theorem readsOf_addrs (m : Memory) (a n : Nat) : (readsOf m a n).map Prod.fst = readAddrs a n := by
  simp [readsOf, Function.comp_def]

theorem readsOf_bytes (m : Memory) (a n : Nat) : (readsOf m a n).map Prod.snd = Memory.bytes m a n := by
  induction n generalizing a with
  | zero => rfl
  | succ n ih => exact congrArg (Memory.read m a :: ·) (ih (a + 1))

theorem readsOf_append_last (m : Memory) (a n : Nat) :
    readsOf m a (n + 1) = readsOf m a n ++ [(a + n, Memory.read m (a + n))] := by
  simp [readsOf, readAddrs_append_last]

theorem crc16_bytes_append_last (m : Memory) (a n : Nat) :
    crc16 (Memory.bytes m a (n + 1)) = crcStep (crc16 (Memory.bytes m a n)) (Memory.read m (a + n)) := by
  simp [crc16, Memory.bytes_append_last, fold_append]

/-- The computation that a START accepted in `s` begins, with `k` of its bytes consumed and nothing but the engine's
turns since. -/
def midway (s : State) (k : Nat) : State :=
  { latch s.base s.len s with
    cnt := BitVec.ofNat 16 k
    acc := crc16 (Memory.bytes s.mem s.base.toNat k)
    readLog := readsOf s.mem s.base.toNat k }

theorem midway_zero (s : State) : midway s 0 = latch s.base s.len s := rfl

theorem midway_cnt {s : State} {k : Nat} (hk : k ≤ s.len.toNat) : (midway s k).cnt.toNat = k :=
  Nat.mod_eq_of_lt (Nat.lt_of_le_of_lt hk s.len.isLt)

theorem midway_consume {s : State} {k : Nat} (hk : k ≤ s.len.toNat) :
    bufferAddr (midway s k) = s.base.toNat + k ∧
      consume (Memory.read s.mem (s.base.toNat + k)) (midway s k) = midway s (k + 1) := by
  have haddr : bufferAddr (midway s k) = s.base.toNat + k := congrArg (s.base.toNat + ·) (midway_cnt hk)
  refine ⟨haddr, ?_⟩
  rw [consume, haddr]
  simp [midway, crc16_bytes_append_last, readsOf_append_last, BitVec.ofNat_add]

section LeftToItself
variable {s : State} (hi : s.inbox = [])
  (hadm : ∀ a, s.base.toNat ≤ a → a < s.base.toNat + s.len.toNat → admits s.plat a = true)
include hi

theorem step_midway_finish : step (midway s s.len.toNat) = .next (flagsFinished (midway s s.len.toNat)) := by
  rw [step_empty (s := midway s s.len.toNat) hi]
  exact engineTurn_finish rfl (BitVec.eq_of_toNat_eq (midway_cnt (Nat.le_refl _)))

include hadm

/-- One turn consumes one byte (R143). -/
theorem step_midway {k : Nat} (hk : k < s.len.toNat) : step (midway s k) = .next (midway s (k + 1)) := by
  have hcnt : (midway s k).cnt.toNat = k := midway_cnt (Nat.le_of_lt hk)
  have hne : (midway s k).cnt ≠ (midway s k).lenL := fun he => by
    have : k = s.len.toNat := hcnt.symm.trans (congrArg BitVec.toNat he)
    omega
  obtain ⟨haddr, hnext⟩ := midway_consume (Nat.le_of_lt hk)
  have hbyte : admits (midway s k).plat (bufferAddr (midway s k)) = true := by
    rw [haddr]
    exact hadm _ (Nat.le_add_right ..) (Nat.add_lt_add_left hk _)
  rw [step_empty (s := midway s k) hi, engineTurn_step rfl hne hbyte, haddr]
  exact congrArg _ hnext

theorem runSteps_midway {k : Nat} (hk : k ≤ s.len.toNat) :
    runSteps k (latch s.base s.len s) = .next (midway s k) := by
  induction k with
  | zero => rw [runSteps_zero, midway_zero]
  | succ k ih => rw [runSteps_add (ih (Nat.le_of_succ_le hk)), runSteps_succ (step_midway hi hadm hk), runSteps_zero]

/-- The whole computation: LEN bytes and ENG_FINISH (R145). -/
theorem runSteps_whole :
    runSteps (s.len.toNat + 1) (latch s.base s.len s) = .next (flagsFinished (midway s s.len.toNat)) := by
  rw [runSteps_add (runSteps_midway hi hadm (Nat.le_refl _)), runSteps_succ (step_midway_finish hi), runSteps_zero]

end LeftToItself

/-- Settles O52: the states after each turn are the computation midway, and the last is its end. -/
theorem computationYieldsTheCrcOfTheBuffer : Obligations.ComputationYieldsTheCrcOfTheBuffer := by
  intro s data hstart hb hi hfit hadm
  refine ⟨_, exec_wrCtrl_accepted hstart hb ((bufferWraps_false_iff s).2 hfit), fun k hk => ?_, ?_⟩
  · exact ⟨_, runSteps_midway hi hadm hk, rfl, rfl, midway_cnt hk, readsOf_addrs ..⟩
  · exact ⟨_, runSteps_whole hi hadm, rfl, rfl, rfl, readsOf_bytes ..,
      BitVec.eq_of_toNat_eq (midway_cnt (Nat.le_refl _)), rfl, rfl, rfl, rfl, rfl⟩

/-- Settles O54: each result is crc16 of its own buffer, and the two buffers hold the same bytes. -/
theorem computationsAreIsolated : Obligations.ComputationsAreIsolated := by
  intro s₁ s₂ hb₁ hb₂ hi₁ hi₂ _ hfit₁ hfit₂ hadm₁ hadm₂ hbytes
  exact ⟨_, _, _, _, exec_engAccept_accepted hb₁ ((bufferWraps_false_iff s₁).2 hfit₁),
    exec_engAccept_accepted hb₂ ((bufferWraps_false_iff s₂).2 hfit₂), runSteps_whole hi₁ hadm₁,
    runSteps_whole hi₂ hadm₂, rfl, rfl, congrArg crc16 hbytes⟩

/-! ## What a result depends on -/

/-- The engine's part of the invariant of R35. It asks nothing of the platform, memory or the host's registers, so an
accepted START sets it up in any state whatever. -/
structure EngineInv (s : State) : Prop where
  one_phase : ¬ (s.busy = true ∧ s.done = true)
  running   : s.busy = true → ComputationInv s
  finished  : s.done = true → ComputationInv s ∧ s.cnt = s.lenL

theorem EngineInv.frame {s : State} (h : EngineInv s) (base : Word) (len : Half) (mem : Memory) (rdata : Word)
    (inbox : List Event) (draws : Nat) :
    EngineInv { s with base := base, len := len, mem := mem, rdata := rdata, inbox := inbox, draws := draws } where
  one_phase := h.one_phase
  running hb := (h.running hb).frame ..
  finished hd := ⟨(h.finished hd).1.frame .., (h.finished hd).2⟩

theorem latch_engineInv {s : State} (hw : bufferWraps s = false) : EngineInv (latch s.base s.len s) where
  one_phase := nofun
  running _ := latch_computationInv hw
  finished := nofun

/-- Whatever an operation does keeps the engine's part of the invariant. -/
theorem Effect.engineInv {s t : State} (he : Effect s t) (h : EngineInv s) : EngineInv t := by
  cases he with
  | unchanged => exact h
  | answered | answeredFree | baseWritten | lenWritten => exact h.frame ..
  | accepted _ hw => exact latch_engineInv hw
  | consumed hb hc _ =>
    exact ⟨h.one_phase, fun _ => consume_computationInv _ (h.running hb) hc,
      fun hd => absurd ⟨hb, hd⟩ h.one_phase⟩
  | ended hb hc => exact ⟨nofun, nofun, fun _ => ⟨(h.running hb).frame .., hc⟩⟩

theorem step_engineInv {s t : State} (h : EngineInv s) (hstep : step s = .next t) : EngineInv t := by
  have hpop : EngineInv (popEvent s) := h.frame ..
  obtain ⟨-, he⟩ | ⟨_, _, -, he | ⟨a, b, -, -, rfl⟩ | ⟨-, rfl⟩⟩ := step_cases hstep
  · exact he.engineInv h
  · exact he.engineInv hpop
  · exact hpop.frame ..
  · exact ⟨nofun, nofun, nofun⟩

theorem runSteps_engineInv {k : Nat} {s t : State} (h : EngineInv s) (hrun : runSteps k s = .next t) :
    EngineInv t := by
  induction k generalizing s with
  | zero => cases hrun; exact h
  | succ k ih =>
    obtain ⟨u, hstep, hrest⟩ := runSteps_succ_next hrun
    exact ih (step_engineInv h hstep) hrest

/-- A START that is accepted, by WR_CTRL or ENG_ACCEPT, is one whose buffer does not wrap. -/
theorem exec_acceptsStart {i : Instr} {s t : State} (ha : acceptsStart i s = true) (h : exec i s = .next t) :
    bufferWraps s = false ∧ t = latch s.base s.len s := by
  cases i with
  | wrCtrl data =>
    have hacc : exec (.wrCtrl data) s = accept s := if_pos ha
    exact accept_next (hacc ▸ h)
  | engAccept =>
    obtain ⟨-, hw, ht⟩ := execEngAccept_next h
    exact ⟨hw, ht⟩
  | rdBase | rdLen | rdCtrl | rdStatus | rdResult | rdRsvd14 | rdRsvd18 | rdRsvd1C | wrBase | wrLen | wrStatus
  | wrResult | wrRsvd14 | wrRsvd18 | wrRsvd1C | engStep | engFinish => cases ha

/-- After an accepted START, in any state and under any schedule, a result is that of the LEN_L bytes read. -/
theorem result_of_bytes_read {i : Instr} {k : Nat} {s t u : State} (ha : acceptsStart i s = true)
    (h : exec i s = .next t) (hrun : runSteps k t = .next u) (hd : u.done = true) :
    u.readLog.map Prod.fst = readAddrs u.baseL.toNat u.lenL.toNat ∧
      u.acc = fold 0xFFFF#16 (u.readLog.map Prod.snd) := by
  obtain ⟨hw, rfl⟩ := exec_acceptsStart ha h
  obtain ⟨hcomp, hcnt⟩ := (runSteps_engineInv (latch_engineInv hw) hrun).finished hd
  exact ⟨hcnt ▸ hcomp.addrs, hcomp.folded⟩

/-- Settles O56: an accepted START sets up the engine's invariant, every step keeps it, and RESULT is then ACC. -/
theorem resultDependsOnlyOnTheBytesRead : Obligations.ResultDependsOnlyOnTheBytesRead := by
  refine ⟨fun i s t ha h => ?_, fun i k s t u => result_of_bytes_read, ?_⟩
  · obtain ⟨-, rfl⟩ := exec_acceptsStart ha h
    exact ⟨rfl, rfl, rfl, rfl⟩
  · intro i₁ i₂ k₁ k₂ s₁ s₂ t₁ t₂ u₁ u₂ ha₁ h₁ hrun₁ hd₁ ha₂ h₂ hrun₂ hd₂ hbytes
    obtain ⟨-, hacc₁⟩ := result_of_bytes_read ha₁ h₁ hrun₁ hd₁
    obtain ⟨-, hacc₂⟩ := result_of_bytes_read ha₂ h₂ hrun₂ hd₂
    have hacc : u₁.acc = u₂.acc := by rw [hacc₁, hacc₂, hbytes]
    exact ⟨_, exec_rdResult_done hd₁, hacc ▸ exec_rdResult_done hd₂⟩

end Sys2Proof.Machine
end

section
/-! The host's access (42_host_access.md R170 to R188): what each register transaction does, which access of the window
it is, how a START meets the end of a computation, and what a host's call of the block returns. -/

namespace Sys2Proof.Machine

/-! ## Registers: operands and operations -/

theorem exec_rdBase (s : State) : exec .rdBase s = .next (reply s.base s) := rfl

theorem exec_rdLen (s : State) : exec .rdLen s = .next (reply (s.len.setWidth 32) s) := rfl

theorem exec_rdStatus (s : State) : exec .rdStatus s = .next (reply (statusWord s) s) := rfl

/-- RD_RESULT before DONE: the next free draw (R180). -/
theorem exec_rdResult_not_done {s : State} (h : s.done = false) :
    exec .rdResult s = .next (drawn (reply (unspecifiedRead s) s)) := by
  simp [exec, execRdResult, h]

theorem exec_wrBase (data : Word) (s : State) :
    exec (.wrBase data) s = .next (setBase (addrField s.plat data) s) := rfl

theorem exec_wrLen (data : Word) (s : State) : exec (.wrLen data) s = .next (setLen (lenField data) s) := rfl

theorem addrField_getLsbD (p : Platform) (data : Word) (k : Nat) :
    (addrField p data).getLsbD k = (decide (k < p.addrW) && data.getLsbD k) := by
  rw [BitVec.getLsbD, addrField_toNat, Nat.testBit_mod_two_pow, BitVec.getLsbD]

/-- `DATA[15:0]` as a number (R84). -/
theorem lenField_toNat (data : Word) : (lenField data).toNat = data.toNat % 65536 := by
  simp [lenField]

/-- A 16-bit value written to LEN is stored whole. -/
theorem lenField_ofNat (n : Half) : lenField (BitVec.ofNat 32 n.toNat) = n :=
  BitVec.eq_of_toNat_eq (by simpa [lenField] using n.isLt)

/-- BUSY in bit 0, DONE in bit 1, zeros above (R32). -/
theorem statusWord_bits (s : State) :
    (statusWord s).getLsbD 0 = s.busy ∧ (statusWord s).getLsbD 1 = s.done ∧ (statusWord s).toNat < 4 := by
  rw [statusWord_eq]
  cases s.busy <;> cases s.done <;> decide

/-! ## Reads -/

/-- Settles O11: the value written is the one read, cut to ADDR_W bits. -/
theorem readBaseReturnsBase : Obligations.ReadBaseReturnsBase :=
  ⟨decodeHT_key .rdBase, exec_rdBase, fun _ _ => ⟨_, _, exec_wrBase .., exec_rdBase _, addrField_toNat ..⟩, rfl⟩

/-- Settles O12: the value written is the one read, cut to 16 bits and extended with zeros. -/
theorem readLenReturnsLen : Obligations.ReadLenReturnsLen := by
  refine ⟨decodeHT_key .rdLen, fun s => ?_, fun s data => ⟨_, _, exec_wrLen .., exec_rdLen _, ?_⟩, rfl⟩
  · rw [exec_rdLen, reply, BitVec.ofNat_toNat]
  · have hlen := lenField_toNat data
    have hwide : (lenField data).toNat < 2 ^ 32 := by omega
    rw [reply_rdata, setLen_len, BitVec.toNat_setWidth, Nat.mod_eq_of_lt hwide, hlen]

/-- Settles O13: CTRL reads as the constant 0. -/
theorem readCtrlReturnsZero : Obligations.ReadCtrlReturnsZero := ⟨decodeHT_key .rdCtrl, fun _ => rfl⟩

/-- Settles O14: the status word's bits are the flags, which the invariant never lets both be 1. -/
theorem readStatusShowsBusyAndDone : Obligations.ReadStatusShowsBusyAndDone := by
  refine ⟨decodeHT_key .rdStatus, fun s => ?_, ?_⟩
  · obtain ⟨hbusy, hdone, hlt⟩ := statusWord_bits s
    refine ⟨statusWord s, exec_rdStatus s, hbusy, hdone, hlt, fun hinv h3 => hinv.one_phase ⟨?_, ?_⟩⟩
    · rw [← hbusy, h3]; rfl
    · rw [← hdone, h3]; rfl
  · have hstatus : statusWord State.reset = 0#32 := by simp [statusWord_eq, State.reset]
    rw [exec_rdStatus, hstatus, reply]

/-- Settles O15: by DONE; the read leaves ACC and DONE, so a second one gives the same. -/
theorem readResultReturnsAccWhenDone : Obligations.ReadResultReturnsAccWhenDone := by
  refine ⟨decodeHT_key .rdResult, fun s h => ⟨exec_rdResult_done h, exec_rdResult_done h⟩,
    fun s h => ⟨draw16 s.draws, ?_⟩⟩
  rw [exec_rdResult_not_done h, unspecifiedRead, BitVec.ofNat_toNat]
  rfl

/-- Settles O16: each reserved offset reads as the constant 0. -/
theorem reservedOffsetsReadZero : Obligations.ReservedOffsetsReadZero :=
  ⟨fun data => ⟨decodeHT_key .rdRsvd14 data, decodeHT_key .rdRsvd18 data, decodeHT_key .rdRsvd1C data⟩,
    fun _ => ⟨rfl, rfl, rfl⟩⟩

/-! ## Writes -/

/-- Settles O17: the address field is DATA modulo 2^ADDR_W, so DATA's bits below ADDR_W. -/
theorem writeBaseKeepsAddressBits : Obligations.WriteBaseKeepsAddressBits :=
  ⟨decodeHT_key .wrBase, fun s data =>
    ⟨addrField s.plat data, exec_wrBase data s, addrField_toNat s.plat data, addrField_getLsbD s.plat data⟩⟩

/-- Settles O18: the length field is DATA modulo 2^16. -/
theorem writeLenKeepsLowHalf : Obligations.WriteLenKeepsLowHalf := by
  have hfield : ∀ data : Word, lenField data = BitVec.ofNat 16 data.toNat := fun data =>
    BitVec.eq_of_toNat_eq (lenField_toNat data)
  exact ⟨decodeHT_key .wrLen, fun s data => by rw [exec_wrLen, hfield, setLen], fun _ => rfl, fun _ => rfl⟩

/-- Settles O21: none of the five writes does anything. -/
theorem writesWithoutEffect : Obligations.WritesWithoutEffect :=
  ⟨fun data => ⟨decodeHT_key .wrStatus data, decodeHT_key .wrResult data, decodeHT_key .wrRsvd14 data,
    decodeHT_key .wrRsvd18 data, decodeHT_key .wrRsvd1C data⟩, fun _ _ => ⟨rfl, rfl, rfl, rfl, rfl⟩⟩

/-- A START whose buffer would wrap is refused (R55). -/
theorem exec_wrCtrl_wraps {s : State} {data : Word} (hstart : startBit data = true) (hb : s.busy = false)
    (hw : bufferWraps s = true) : exec (.wrCtrl data) s = .refused .bufferWraps := by
  simp [exec, execWrCtrl, hstart, hb, accept, hw]

/-- WR_CTRL without START, or while BUSY = 1, does nothing (R174, R175). -/
theorem exec_wrCtrl_ignored {s : State} {data : Word} (h : acceptsStart (.wrCtrl data) s = false) :
    exec (.wrCtrl data) s = .next s :=
  if_neg (Bool.eq_false_iff.1 h)

/-- Settles O19: START, BUSY and the wrap of the buffer decide the answer. -/
theorem writeCtrlStartsWhenIdle : Obligations.WriteCtrlStartsWhenIdle := by
  refine ⟨decodeHT_key .wrCtrl, fun s data hstart hb => ⟨fun hfit => ?_, fun hl hwrap => ?_⟩,
    fun s data h => exec_wrCtrl_ignored ?_, fun s data h => exec_wrCtrl_ignored ?_⟩
  · exact exec_wrCtrl_accepted hstart hb ((bufferWraps_false_iff s).2 hfit)
  · exact exec_wrCtrl_wraps hstart hb (bufferWraps_of_lt hl hwrap)
  · have hs : startBit data = false := h
    simp [acceptsStart, hs]
  · simp [acceptsStart, h]

/-! ## Transactions as events -/

/-- A pending transaction of the block is its operation, in the state from whose list it is gone. -/
theorem step_transaction {s : State} (op : HtOp) {data : Word} {es : List Event}
    (h : s.inbox = .host (accessOf s.plat.regBase op.key data) :: es) :
    step s = exec (op.withData data) { s with inbox := es } :=
  stepRunsTheDecodedTransaction s op.key data es _ h (decodeHT_key op data)

/-- A key with an aligned offset decodes to one of the 16 transactions (R82). -/
theorem decodeHT_aligned {n : Nat} (h : n % 4 = 0) (w : Bool) (data : Word) :
    ∃ op : HtOp, decodeHT (makeKey w (BitVec.ofNat 5 n)) data = .ok (op.withData data) := by
  obtain ⟨op, -, hd⟩ | ⟨hlow, -⟩ := decodeHT_cases (makeKey w (BitVec.ofNat 5 n)) data
  · exact ⟨op, hd⟩
  · exact absurd (BitVec.eq_of_toNat_eq (by simp; omega)) hlow

/-- Settles O10: the access is routed to its own key, whose offset is aligned. -/
theorem everyWellFormedAccessRunsAnOperation : Obligations.EveryWellFormedAccessRunsAnOperation := by
  intro s a es hs hwf
  simp only [HostAccess.wellFormed, Bool.and_eq_true, decide_eq_true_eq] at hwf
  obtain ⟨⟨⟨hwidth, hlo⟩, hhi⟩, haligned⟩ := hwf
  obtain ⟨op, hd⟩ := decodeHT_aligned haligned a.write a.data
  obtain ⟨-, -, hreaches⟩ := routeAccess_touching (p := s.plat) (a := a) (by omega) hhi
  refine ⟨_, withData_isHost op a.data, hd, ?_⟩
  rw [step_takes hs]
  simp [takeEvent, hostTurn, hreaches hwidth hlo, hd]

/-- Every operation of the host completes, but for a START whose buffer would wrap (R170, R55). -/
theorem exec_host_completes {i : Instr} (s : State) (h : i.isHost = true) :
    (acceptsStart i s = true ∧ bufferWraps s = true ∧ exec i s = .refused .bufferWraps) ∨ ∃ t, exec i s = .next t := by
  cases i with
  | wrCtrl data =>
    cases hacc : acceptsStart (.wrCtrl data) s with
    | false => exact .inr ⟨s, exec_wrCtrl_ignored hacc⟩
    | true =>
      obtain ⟨-, hstart, hb⟩ := acceptsStart_withData (op := .wrCtrl) hacc
      cases hw : bufferWraps s with
      | false => exact .inr ⟨_, exec_wrCtrl_accepted hstart hb hw⟩
      | true => exact .inl ⟨rfl, rfl, exec_wrCtrl_wraps hstart hb hw⟩
  | rdResult =>
    cases hd : s.done with
    | false => exact .inr ⟨_, exec_rdResult_not_done hd⟩
    | true => exact .inr ⟨_, exec_rdResult_done hd⟩
  | rdBase | rdLen | rdCtrl | rdStatus | rdRsvd14 | rdRsvd18 | rdRsvd1C | wrBase | wrLen | wrStatus | wrResult | wrRsvd14
  | wrRsvd18 | wrRsvd1C => exact .inr ⟨_, rfl⟩
  | engAccept | engStep | engFinish => cases h

/-- Settles O36: by what the completed operation has done. -/
theorem hostOperationsCompleteInOneEvent : Obligations.HostOperationsCompleteInOneEvent := by
  intro i s hhost
  obtain ⟨hacc, hw, hx⟩ | ⟨t, hx⟩ := exec_host_completes s hhost
  · simp only [bufferWraps, Bool.and_eq_true, decide_eq_true_eq] at hw
    exact .inl ⟨hacc, hw.1, hw.2, hx⟩
  · obtain ⟨hmem, -⟩ := (exec_effect hx).keeps_world
    refine .inr ⟨t, hx, hmem, fun hno => ?_⟩
    cases exec_completed hx with
    | accepted hacc => simp [hno] at hacc
    | consumed | finished => cases hhost
    | baseWritten | lenWritten | quiet => exact ⟨rfl, rfl, rfl, rfl, rfl, rfl⟩

/-- A pending turn of the engine when every byte is consumed ends the computation (R144). -/
theorem step_engine_finish {s : State} {es : List Event} (hi : s.inbox = .engine :: es) (hb : s.busy = true)
    (hc : s.cnt = s.lenL) : step s = .next (flagsFinished { s with inbox := es }) :=
  (step_takes hi).trans (engineTurn_finish (s := { s with inbox := es }) hb hc)

/-- Settles O20: before the engine has finished, BUSY = 1 and the START is ignored; after it, the START is accepted. -/
theorem startAndFinishContend : Obligations.StartAndFinishContend := by
  intro s data hb hc hstart hfit
  refine ⟨fun es hi => ?_, fun es hi => ?_⟩
  · have hignored : step s = .next { s with inbox := .engine :: es } :=
      (step_transaction .wrCtrl hi).trans (exec_wrCtrl_ignored (by simp [acceptsStart, hb]))
    have hfinish : step { s with inbox := .engine :: es } = .next (flagsFinished { s with inbox := es }) :=
      step_engine_finish rfl hb hc
    exact (runSteps_succ hignored).trans (runSteps_succ hfinish)
  · have haccepted := exec_wrCtrl_accepted (s := flagsFinished { s with inbox := es }) hstart rfl
      ((bufferWraps_false_iff _).2 hfit)
    exact (runSteps_succ (step_engine_finish hi hb hc)).trans
      (runSteps_succ ((step_transaction .wrCtrl rfl).trans haccepted))

/-! ## The call of R188 -/

/-- `s` with other events to come, other memory, another RDATA and another count of draws: all that bystanders change. -/
def State.withWorld (s : State) (inbox : List Event) (mem : Memory) (rdata : Word) (draws : Nat) : State :=
  { s with inbox := inbox, mem := mem, rdata := rdata, draws := draws }

theorem step_withWorld (s : State) (e : Event) (es : List Event) (m : Memory) (v : Word) (d : Nat) :
    step (s.withWorld (e :: es) m v d) = takeEvent e (s.withWorld es m v d) := rfl

theorem step_withWorld_transaction (s : State) (op : HtOp) (data : Word) (es : List Event) (m : Memory) (v : Word)
    (d : Nat) : step (s.withWorld (.host (accessOf s.plat.regBase op.key data) :: es) m v d) =
      exec (op.withData data) (s.withWorld es m v d) :=
  step_transaction op rfl

/-- The two memories hold the same byte wherever no store among the events goes. -/
def StoredOnlyBy (es : List Event) (m m' : Memory) : Prop :=
  ∀ x, (∀ b, Event.store x b ∉ es) → Memory.read m' x = Memory.read m x

theorem StoredOnlyBy.refl (es : List Event) (m : Memory) : StoredOnlyBy es m m := fun _ _ => rfl

theorem StoredOnlyBy.append {es es' : List Event} {m m' m'' : Memory} (h : StoredOnlyBy es m m')
    (h' : StoredOnlyBy es' m' m'') : StoredOnlyBy (es ++ es') m m'' := fun x hx =>
  (h' x fun b hb => hx b (List.mem_append_right _ hb)).trans (h x fun b hb => hx b (List.mem_append_left _ hb))

theorem storedOnlyBy_write (m : Memory) (a : Nat) (b : Byte) :
    StoredOnlyBy [.store a b] m (Memory.write m a b) := fun x hx =>
  Memory.read_write_other m b fun he => hx b (by simp [he])

/-- One bystander's event, where it is no turn of a running engine: the block stays as it is. -/
theorem step_bystander {s : State} {e : Event} {es : List Event} (hi : s.inbox = e :: es)
    (hby : bystander s.plat e = true) (hturn : e ≠ .engine ∨ s.busy = false) :
    ∃ m v n, step s = .next (s.withWorld es m v n) ∧ StoredOnlyBy [e] s.mem m := by
  rw [step_takes hi]
  cases e with
  | host a =>
    obtain ⟨v, n, h⟩ := hostTurn_bystander (s := { s with inbox := es }) hby
    exact ⟨s.mem, v, n, h, .refl _ _⟩
  | store a b =>
    exact ⟨Memory.write s.mem a b, s.rdata, s.draws, storeTurn_bystander (s := { s with inbox := es }) hby,
      storedOnlyBy_write _ _ _⟩
  | engine =>
    have hb : s.busy = false := hturn.resolve_left fun h => h rfl
    exact ⟨s.mem, s.rdata, s.draws, engineTurn_idle (s := { s with inbox := es }) hb, .refl _ _⟩
  | reset => cases hby

/-- While BUSY = 0 any number of bystanders leave the block as it is, by induction on their events. -/
theorem runSteps_idle_bystanders {s : State} {es rest : List Event} (hi : s.inbox = es ++ rest)
    (hby : ∀ e ∈ es, bystander s.plat e = true) (hb : s.busy = false) :
    ∃ m v n, runSteps es.length s = .next (s.withWorld rest m v n) ∧ StoredOnlyBy es s.mem m := by
  induction es generalizing s with
  | nil => exact ⟨s.mem, s.rdata, s.draws, by rw [← List.nil_append rest, ← hi]; rfl, .refl _ _⟩
  | cons e es ih =>
    obtain ⟨m, v, n, hstep, hm⟩ := step_bystander hi (hby e List.mem_cons_self) (.inr hb)
    obtain ⟨m', v', n', hrun, hm'⟩ := ih (s := s.withWorld (es ++ rest) m v n) rfl
      (fun e he => hby e (List.mem_cons_of_mem _ he)) hb
    exact ⟨m', v', n', (runSteps_succ hstep).trans hrun, hm.append hm'⟩

/-- A transaction that leaves BUSY = 0, and the bystanders after it. -/
theorem runSteps_transaction {s u : State} (op : HtOp) {data : Word} {es rest : List Event}
    (hi : s.inbox = .host (accessOf s.plat.regBase op.key data) :: (es ++ rest))
    (hx : exec (op.withData data) { s with inbox := es ++ rest } = .next u) (hb : u.busy = false)
    (hby : ∀ e ∈ es, bystander s.plat e = true) :
    ∃ m v n, runSteps (es.length + 1) s = .next (u.withWorld rest m v n) ∧ StoredOnlyBy es s.mem m := by
  obtain ⟨hmem, hplat, hinbox⟩ := (exec_effect hx).keeps_world
  obtain ⟨m, v, n, hrun, hm⟩ := runSteps_idle_bystanders hinbox (hplat ▸ hby) hb
  exact ⟨m, v, n, (runSteps_succ ((step_transaction op hi).trans hx)).trans hrun, hmem ▸ hm⟩

/-- A call up to its START, which is accepted in a state `c` where BASE and LEN are as the call has written them, and which
only the bystanders' stores tell from the first state's memory. -/
theorem runSteps_setup {s : State} {a : Word} {n : Half} {afterBase afterLen rest : List Event} (hb : s.busy = false)
    (ha : a.toNat < 2 ^ s.plat.addrW) (hfit : n = 0#16 ∨ a.toNat + n.toNat ≤ 2 ^ s.plat.addrW)
    (hby : ∀ e ∈ afterBase ++ afterLen, bystander s.plat e = true)
    (hi : s.inbox = .host (accessOf s.plat.regBase 0x20#6 a) :: (afterBase ++
      .host (accessOf s.plat.regBase 0x24#6 (BitVec.ofNat 32 n.toNat)) :: (afterLen ++
      .host (accessOf s.plat.regBase 0x28#6 1#32) :: rest))) :
    ∃ c : State, runSteps (afterBase.length + afterLen.length + 3) s = .next (latch c.base c.len c) ∧
      c.base = a ∧ c.len = n ∧ c.plat = s.plat ∧ c.inbox = rest ∧
      StoredOnlyBy (afterBase ++ afterLen) s.mem c.mem := by
  have hbase : addrField s.plat a = a := BitVec.eq_of_toNat_eq (by rw [addrField_toNat, Nat.mod_eq_of_lt ha])
  obtain ⟨m₁, v₁, d₁, hrun₁, hm₁⟩ := runSteps_transaction .wrBase hi (exec_wrBase ..) hb
    fun e he => hby e (List.mem_append_left _ he)
  rw [hbase] at hrun₁
  obtain ⟨m₂, v₂, d₂, hrun₂, hm₂⟩ := runSteps_transaction .wrLen
    (s := (setBase a s).withWorld (.host (accessOf s.plat.regBase 0x24#6 (BitVec.ofNat 32 n.toNat)) :: (afterLen ++
      .host (accessOf s.plat.regBase 0x28#6 1#32) :: rest)) m₁ v₁ d₁)
    rfl (exec_wrLen ..) hb fun e he => hby e (List.mem_append_right _ he)
  rw [lenField_ofNat] at hrun₂
  have hstart := exec_wrCtrl_accepted (s := (setLen n (setBase a s)).withWorld rest m₂ v₂ d₂) (data := 1#32) rfl hb
    ((bufferWraps_false_iff _).2 hfit)
  refine ⟨(setLen n (setBase a s)).withWorld rest m₂ v₂ d₂, ?_, rfl, rfl, rfl, rfl, hm₁.append hm₂⟩
  rw [show afterBase.length + afterLen.length + 3 = afterBase.length + 1 + (afterLen.length + 1 + 1) by omega,
    runSteps_add hrun₁]
  exact (runSteps_add hrun₂).trans (runSteps_succ ((step_withWorld_transaction _ .wrCtrl ..).trans hstart))

theorem engineTurns_cons_of_ne {e : Event} {es : List Event} (h : e ≠ .engine) :
    engineTurns (e :: es) = engineTurns es := by
  cases e with
  | engine => exact absurd rfl h
  | host | store | reset => rfl

section Serving
variable {c : State} (hadm : ∀ x, c.base.toNat ≤ x → x < c.base.toNat + c.len.toNat → admits c.plat x = true)

theorem step_serving_finish {es : List Event} {m : Memory} {v : Word} {d : Nat} :
    step ((midway c c.len.toNat).withWorld (.engine :: es) m v d) =
      .next ((flagsFinished (midway c c.len.toNat)).withWorld es m v d) :=
  step_engine_finish rfl rfl (BitVec.eq_of_toNat_eq (midway_cnt (Nat.le_refl _)))

include hadm

/-- A turn of the engine during the call consumes the next byte, which stands in memory as it did at the START. -/
theorem step_serving {k : Nat} {es : List Event} {m : Memory} {v : Word} {d : Nat} (hk : k < c.len.toNat)
    (hm : Memory.read m (c.base.toNat + k) = Memory.read c.mem (c.base.toNat + k)) :
    step ((midway c k).withWorld (.engine :: es) m v d) = .next ((midway c (k + 1)).withWorld es m v d) := by
  have hcnt : (midway c k).cnt.toNat = k := midway_cnt (Nat.le_of_lt hk)
  have hne : (midway c k).cnt ≠ c.len := fun he => by
    have : k = c.len.toNat := hcnt.symm.trans (congrArg BitVec.toNat he)
    omega
  obtain ⟨haddr, hnext⟩ := midway_consume (Nat.le_of_lt hk)
  have haddr' : bufferAddr ((midway c k).withWorld es m v d) = c.base.toNat + k := haddr
  have hbyte : admits c.plat (c.base.toNat + k) = true :=
    hadm _ (Nat.le_add_right ..) (Nat.add_lt_add_left hk _)
  calc step ((midway c k).withWorld (.engine :: es) m v d)
      = engineTurn ((midway c k).withWorld es m v d) := step_withWorld ..
    _ = .next (consume (Memory.read m (c.base.toNat + k)) ((midway c k).withWorld es m v d)) :=
        haddr' ▸ engineTurn_step rfl hne (haddr' ▸ hbyte)
    _ = .next ((midway c (k + 1)).withWorld es m v d) := by
        rw [hm, ← hnext]
        rfl

/-- From a computation with `k` bytes consumed, bystanders that store nothing to the buffer and hold turns enough for the
rest of it bring it to its end, by induction on their events. -/
theorem runSteps_serving {k : Nat} {es rest : List Event} {m : Memory} {v : Word} {d : Nat}
    (hk : k ≤ c.len.toNat) (hby : ∀ e ∈ es, bystander c.plat e = true)
    (hst : ∀ x b, Event.store x b ∈ es → x < c.base.toNat ∨ c.base.toNat + c.len.toNat ≤ x)
    (hm : ∀ x, c.base.toNat ≤ x → x < c.base.toNat + c.len.toNat → Memory.read m x = Memory.read c.mem x)
    (hturns : c.len.toNat + 1 ≤ engineTurns es + k) :
    ∃ m' v' d', runSteps es.length ((midway c k).withWorld (es ++ rest) m v d) =
      .next ((flagsFinished (midway c c.len.toNat)).withWorld rest m' v' d') := by
  induction es generalizing k m v d with
  | nil =>
    simp only [engineTurns] at hturns
    omega
  | cons e es ih =>
    have hby' : ∀ e ∈ es, bystander c.plat e = true := fun e he => hby e (List.mem_cons_of_mem _ he)
    have hst' := fun x b hx => hst x b (List.mem_cons_of_mem e hx)
    by_cases he : e = .engine
    · subst he
      simp only [engineTurns] at hturns
      obtain hlt | rfl := Nat.lt_or_eq_of_le hk
      · obtain ⟨m', v', d', hrun⟩ := ih (m := m) (v := v) (d := d) hlt hby' hst' hm (by omega)
        exact ⟨m', v', d', (runSteps_succ (step_serving hadm hlt (hm _ (by omega) (by omega)))).trans hrun⟩
      · obtain ⟨m', v', d', hrun, -⟩ := runSteps_idle_bystanders
          (s := (flagsFinished (midway c c.len.toNat)).withWorld (es ++ rest) m v d) rfl hby' rfl
        exact ⟨m', v', d', (runSteps_succ step_serving_finish).trans hrun⟩
    · obtain ⟨m₁, v₁, d₁, hstep, hm₁⟩ := step_bystander
        (s := (midway c k).withWorld (e :: es ++ rest) m v d) rfl (hby e List.mem_cons_self) (.inl he)
      have hbuffer : ∀ x, c.base.toNat ≤ x → x < c.base.toNat + c.len.toNat →
          Memory.read m₁ x = Memory.read c.mem x := fun x hlo hhi => by
        refine (hm₁ x fun b hb => ?_).trans (hm x hlo hhi)
        have := hst x b (List.mem_singleton.1 hb ▸ List.mem_cons_self)
        omega
      obtain ⟨m', v', d', hrun⟩ := ih hk hby' hst' hbuffer (engineTurns_cons_of_ne he ▸ hturns)
      exact ⟨m', v', d', (runSteps_succ hstep).trans hrun⟩

/-- The run of a call's computation, from its START to the RD_RESULT: it comes to its end, which stands. -/
theorem runSteps_computation {running finished rest : List Event} (hi : c.inbox = running ++ (finished ++ rest))
    (hby : ∀ e ∈ running ++ finished, bystander c.plat e = true)
    (hst : ∀ x b, Event.store x b ∈ running → x < c.base.toNat ∨ c.base.toNat + c.len.toNat ≤ x)
    (hturns : c.len.toNat + 1 ≤ engineTurns running) :
    ∃ m v d, runSteps (running.length + finished.length) (latch c.base c.len c) =
      .next ((flagsFinished (midway c c.len.toNat)).withWorld rest m v d) := by
  obtain ⟨m₁, v₁, d₁, hrun₁⟩ := runSteps_serving hadm (k := 0) (es := running) (rest := finished ++ rest) (m := c.mem)
    (v := c.rdata) (d := c.draws) (Nat.zero_le _) (fun e he => hby e (List.mem_append_left _ he)) hst
    (fun _ _ _ => rfl) hturns
  rw [← hi] at hrun₁
  obtain ⟨m₂, v₂, d₂, hrun₂, -⟩ := runSteps_idle_bystanders
    (s := (flagsFinished (midway c c.len.toNat)).withWorld (finished ++ rest) m₁ v₁ d₁) rfl
    (fun e he => hby e (List.mem_append_right _ he)) rfl
  exact ⟨m₂, v₂, d₂, (runSteps_add hrun₁).trans hrun₂⟩

end Serving

/-- Settles O55: the set-up leaves BASE = a and LEN = n for the START, the engine's turns bring the computation it begins to
its end through the bystanders, and what stands after the end leaves ACC for RD_RESULT. -/
theorem hostCallReturnsTheCrc : Obligations.HostCallReturnsTheCrc := by
  intro s a n afterBase afterLen running finished rest hb ha hfit hadm hby hst hturns hi
  rw [List.append_assoc, List.forall_mem_append] at hby
  obtain ⟨hbySetup, hbyRun⟩ := hby
  obtain ⟨c, hsetup, rfl, rfl, hplat, hinbox, hm⟩ := runSteps_setup (rest := running ++ (finished ++
    .host (accessOf s.plat.regBase 0x10#6 0#32) :: rest)) hb ha hfit hbySetup (by simpa using hi)
  rw [← hplat] at hadm hbyRun hinbox
  obtain ⟨m, v, d, hrun⟩ := runSteps_computation hadm hinbox hbyRun hst hturns
  have hread := (step_withWorld_transaction (flagsFinished (midway c c.len.toNat)) .rdResult 0#32 rest m v d).trans
    (exec_rdResult_done rfl)
  exact ⟨_, _, _, hsetup, rfl, hm, hrun, rfl, rfl, hread, rfl, rfl, rfl⟩

end Sys2Proof.Machine
end

section
/-! Exceptions (60_exceptions.md R222): an engine that is not in RUN takes no step. -/

namespace Sys2Proof.Machine

/-- Settles O7: both kinds of the engine's turn are the turn of an engine with BUSY = 0. -/
theorem idleEngineKeepsAllState : Obligations.IdleEngineKeepsAllState := by
  refine fun s hb => ⟨fun hi => ?_, fun es hi => ?_⟩
  · exact (step_empty hi).trans (engineTurn_idle hb)
  · exact (step_takes hi).trans (engineTurn_idle (s := { s with inbox := es }) hb)

end Sys2Proof.Machine
end

section
/-! The reset event (70_reset_and_hazards.md R240, R241): what it clears, draws and leaves, in any state. -/

namespace Sys2Proof.Machine

/-- Settles O26: the event is gone and `resetBlock` runs; the address it draws for BASE_L is cut to ADDR_W bits. -/
theorem resetEventClearsTheBlock : Obligations.ResetEventClearsTheBlock := by
  intro s es hi
  have hstep : step s = .next (resetBlock { s with inbox := es }) := step_takes hi
  exact ⟨_, _, _, _, addrField_lt s.plat (Config.freeDraw (s.draws + 2)), hstep⟩

end Sys2Proof.Machine
end
